-- ==== Sys2Proof/Word.lean ====
section
/-! DEFINITION. The bit-vector widths of the machine (spec/00_scope.md R4) and the index of a general register. -/

namespace Sys2Proof

/-- 8 bits: a general register, a memory byte, a timer, a sprite row (R20, R29, R31). -/
abbrev Byte := BitVec 8

/-- 16 bits: an instruction word (R90), a key sample (R6). -/
abbrev Word := BitVec 16

/-- 16 bits: an address held in `PC`, in `I` or in a call-stack entry (R23, R24, R26). -/
abbrev Addr := BitVec 16

/-- The index of a general register, 0 to 15 (R20). -/
abbrev Reg := Fin 16

end Sys2Proof
end

