-- ==== Sys2Proof/Syntax.lean ====
section
/-! DEFINITION. The instructions: one constructor for each of the 34 rows of spec/opcode_table.json (R95). The normative name
of an instruction is its hexadecimal pattern (R102), given in each docstring. -/

namespace Sys2Proof

/-- An instruction with its operands as R92 and R93 extract them: a register index, the unsigned byte `NN`, the 12-bit
`NNN` as the 16-bit address it is zero-extended to, the row count `N` as a number (log entry 18). -/
inductive Instr where
  /-- 00E0, `CLS` (R212) -/
  | cls
  /-- 00EE, `RET` (R140) -/
  | ret
  /-- 1NNN, `JP nnn` (R141) -/
  | jp (nnn : Addr)
  /-- 2NNN, `CALL nnn` (R142) -/
  | call (nnn : Addr)
  /-- 3XNN, `SE Vx, nn` (R144) -/
  | seByte (x : Reg) (nn : Byte)
  /-- 4XNN, `SNE Vx, nn` (R145) -/
  | sneByte (x : Reg) (nn : Byte)
  /-- 5XY0, `SE Vx, Vy` (R146) -/
  | seReg (x y : Reg)
  /-- 6XNN, `LD Vx, nn` (R160) -/
  | ldByte (x : Reg) (nn : Byte)
  /-- 7XNN, `ADD Vx, nn` (R161) -/
  | addByte (x : Reg) (nn : Byte)
  /-- 8XY0, `LD Vx, Vy` (R162) -/
  | ldReg (x y : Reg)
  /-- 8XY1, `OR Vx, Vy` (R163) -/
  | orReg (x y : Reg)
  /-- 8XY2, `AND Vx, Vy` (R164) -/
  | andReg (x y : Reg)
  /-- 8XY3, `XOR Vx, Vy` (R165) -/
  | xorReg (x y : Reg)
  /-- 8XY4, `ADD Vx, Vy` (R166) -/
  | addReg (x y : Reg)
  /-- 8XY5, `SUB Vx, Vy` (R167) -/
  | subReg (x y : Reg)
  /-- 8XY6, `SHR Vx`; `y` is decoded and ignored (R100, R168; log entry 14) -/
  | shr (x y : Reg)
  /-- 8XY7, `SUBN Vx, Vy` (R169) -/
  | subnReg (x y : Reg)
  /-- 8XYE, `SHL Vx`; `y` is decoded and ignored (R100, R170; log entry 14) -/
  | shl (x y : Reg)
  /-- 9XY0, `SNE Vx, Vy` (R147) -/
  | sneReg (x y : Reg)
  /-- ANNN, `LD I, nnn` (R190) -/
  | ldI (nnn : Addr)
  /-- BNNN, `JP V0, nnn` (R143) -/
  | jpV0 (nnn : Addr)
  /-- CXNN, `RND Vx, nn` (R171) -/
  | rnd (x : Reg) (nn : Byte)
  /-- DXYN, `DRW Vx, Vy, n` (R213) -/
  | drw (x y : Reg) (n : Nat)
  /-- EX9E, `SKP Vx` (R232) -/
  | skp (x : Reg)
  /-- EXA1, `SKNP Vx` (R233) -/
  | sknp (x : Reg)
  /-- FX07, `LD Vx, DT` (R235) -/
  | getDelay (x : Reg)
  /-- FX0A, `LD Vx, K` (R234) -/
  | waitKey (x : Reg)
  /-- FX15, `LD DT, Vx` (R236) -/
  | setDelay (x : Reg)
  /-- FX18, `LD ST, Vx` (R237) -/
  | setSound (x : Reg)
  /-- FX1E, `ADD I, Vx` (R191) -/
  | addI (x : Reg)
  /-- FX29, `LD F, Vx` (R192) -/
  | ldFont (x : Reg)
  /-- FX33, `LD B, Vx` (R193) -/
  | bcd (x : Reg)
  /-- FX55, `LD [I], Vx` (R194) -/
  | storeRegs (x : Reg)
  /-- FX65, `LD Vx, [I]` (R195) -/
  | loadRegs (x : Reg)
  deriving DecidableEq, Repr

end Sys2Proof
end

