-- ==== Sys2Proof/WellFormed.lean ====
section
/-! DEFINITION. Which terms of `Instr` are instructions of the machine: those whose operands fit the fields of R92. -/

namespace Sys2Proof

/-- `NNN` is 12 bits, 0 to 4095 (R92). -/
def fitsNNN (nnn : Addr) : Bool := decide (nnn.toNat < 4096)

/-- `N` is 4 bits, 0 to 15 (R92). -/
def fitsN (n : Nat) : Bool := decide (n < 16)

/-- The operands fit their fields. A register index and a byte fit by their types, so only `NNN` and `N` are checked. -/
def Instr.wellFormed : Instr → Bool
  | .jp nnn => fitsNNN nnn
  | .call nnn => fitsNNN nnn
  | .ldI nnn => fitsNNN nnn
  | .jpV0 nnn => fitsNNN nnn
  | .drw _ _ n => fitsN n
  | .cls => true
  | .ret => true
  | .seByte _ _ => true
  | .sneByte _ _ => true
  | .seReg _ _ => true
  | .ldByte _ _ => true
  | .addByte _ _ => true
  | .ldReg _ _ => true
  | .orReg _ _ => true
  | .andReg _ _ => true
  | .xorReg _ _ => true
  | .addReg _ _ => true
  | .subReg _ _ => true
  | .shr _ _ => true
  | .subnReg _ _ => true
  | .shl _ _ => true
  | .sneReg _ _ => true
  | .rnd _ _ => true
  | .skp _ => true
  | .sknp _ => true
  | .getDelay _ => true
  | .waitKey _ => true
  | .setDelay _ => true
  | .setSound _ => true
  | .addI _ => true
  | .ldFont _ => true
  | .bcd _ => true
  | .storeRegs _ => true
  | .loadRegs _ => true

end Sys2Proof
end

