-- ==== Sys2Proof/Decode.lean ====
section
/-! DEFINITION. The decoder (spec/30_encoding.md R90 to R101), the encoder (R104), the opcode map (R95). -/

namespace Sys2Proof

/-- `w[hi:lo]` as an unsigned number (R8). -/
def slice (w : Word) (hi lo : Nat) : Nat := w.toNat / 2 ^ lo % 2 ^ (hi + 1 - lo)

/-- The family nibble `w[15:12]` (R92). -/
def fieldF (w : Word) : Nat := slice w 15 12

/-- `X = w[11:8]` (R92). -/
def fieldX (w : Word) : Reg := Fin.ofNat 16 (slice w 11 8)

/-- `Y = w[7:4]` (R92). -/
def fieldY (w : Word) : Reg := Fin.ofNat 16 (slice w 7 4)

/-- `N = w[3:0]` (R92). -/
def fieldN (w : Word) : Nat := slice w 3 0

/-- `NN = w[7:0]` (R92). -/
def fieldNN (w : Word) : Byte := BitVec.ofNat 8 (slice w 7 0)

/-- `zext_16(NNN)` with `NNN = w[11:0]` (R92, R93). -/
def fieldNNN (w : Word) : Addr := BitVec.ofNat 16 (slice w 11 0)

/-- Family 8 selects by the low nibble (R94, R96). -/
def decodeFamily8 (w : Word) : Option Instr :=
  match fieldN w with
  | 0x0 => some (.ldReg (fieldX w) (fieldY w))
  | 0x1 => some (.orReg (fieldX w) (fieldY w))
  | 0x2 => some (.andReg (fieldX w) (fieldY w))
  | 0x3 => some (.xorReg (fieldX w) (fieldY w))
  | 0x4 => some (.addReg (fieldX w) (fieldY w))
  | 0x5 => some (.subReg (fieldX w) (fieldY w))
  | 0x6 => some (.shr (fieldX w) (fieldY w))
  | 0x7 => some (.subnReg (fieldX w) (fieldY w))
  | 0xE => some (.shl (fieldX w) (fieldY w))
  | _ => none

/-- Family E selects by the low byte (R94, R96). -/
def decodeFamilyE (w : Word) : Option Instr :=
  match slice w 7 0 with
  | 0x9E => some (.skp (fieldX w))
  | 0xA1 => some (.sknp (fieldX w))
  | _ => none

/-- Family F selects by the low byte (R94, R96). -/
def decodeFamilyF (w : Word) : Option Instr :=
  match slice w 7 0 with
  | 0x07 => some (.getDelay (fieldX w))
  | 0x0A => some (.waitKey (fieldX w))
  | 0x15 => some (.setDelay (fieldX w))
  | 0x18 => some (.setSound (fieldX w))
  | 0x1E => some (.addI (fieldX w))
  | 0x29 => some (.ldFont (fieldX w))
  | 0x33 => some (.bcd (fieldX w))
  | 0x55 => some (.storeRegs (fieldX w))
  | 0x65 => some (.loadRegs (fieldX w))
  | _ => none

/-- Decode one word: the family nibble first, then the second level (R94). `none` is an unrecognized word (R97). Total and
independent of any state (R101). -/
def decodeWord (w : Word) : Option Instr :=
  match fieldF w with
  | 0x0 => if w = 0x00E0#16 then some .cls else if w = 0x00EE#16 then some .ret else none
  | 0x1 => some (.jp (fieldNNN w))
  | 0x2 => some (.call (fieldNNN w))
  | 0x3 => some (.seByte (fieldX w) (fieldNN w))
  | 0x4 => some (.sneByte (fieldX w) (fieldNN w))
  | 0x5 => if fieldN w = 0 then some (.seReg (fieldX w) (fieldY w)) else none
  | 0x6 => some (.ldByte (fieldX w) (fieldNN w))
  | 0x7 => some (.addByte (fieldX w) (fieldNN w))
  | 0x8 => decodeFamily8 w
  | 0x9 => if fieldN w = 0 then some (.sneReg (fieldX w) (fieldY w)) else none
  | 0xA => some (.ldI (fieldNNN w))
  | 0xB => some (.jpV0 (fieldNNN w))
  | 0xC => some (.rnd (fieldX w) (fieldNN w))
  | 0xD => some (.drw (fieldX w) (fieldY w) (fieldN w))
  | 0xE => decodeFamilyE w
  | 0xF => decodeFamilyF w
  | _ => none

/-- Why a byte sequence decodes to no instruction. -/
inductive DecodeError where
  /-- fewer than two bytes are left: an instruction is always two bytes (R90) -/
  | truncated
  /-- the word matches no row of the opcode map (R97) -/
  | unrecognized (w : Word)
  deriving DecidableEq, Repr

/-- The word of two bytes, the first the high one (R62). -/
def wordOfBytes (hi lo : Byte) : Word := BitVec.ofNat 16 (256 * hi.toNat + lo.toNat)

/-- `w[15:8]`, the byte at the lower address (R62). -/
def highByte (w : Word) : Byte := BitVec.ofNat 8 (slice w 15 8)

/-- `w[7:0]`, the byte at the higher address (R62). -/
def lowByte (w : Word) : Byte := BitVec.ofNat 8 (slice w 7 0)

/-- Decode the instruction at the head of a byte sequence and give back the rest (R62, R90). -/
def decode : List Byte → Except DecodeError (Instr × List Byte)
  | hi :: lo :: rest =>
    match decodeWord (wordOfBytes hi lo) with
    | some i => .ok (i, rest)
    | none => .error (.unrecognized (wordOfBytes hi lo))
  | [_] => .error .truncated
  | [] => .error .truncated

/-- Format NNN (R91, R104). -/
def wordNNN (base : Nat) (nnn : Addr) : Word := BitVec.ofNat 16 (base + nnn.toNat % 0x1000)

/-- Format XNN (R91, R104). -/
def wordXNN (base : Nat) (x : Reg) (nn : Byte) : Word := BitVec.ofNat 16 (base + 0x100 * x.val + nn.toNat)

/-- Format XY (R91, R104); format XYN too, with `N` added to the base. -/
def wordXY (base : Nat) (x y : Reg) : Word := BitVec.ofNat 16 (base + 0x100 * x.val + 0x10 * y.val)

/-- Format X (R91, R104). -/
def wordX (base : Nat) (x : Reg) : Word := BitVec.ofNat 16 (base + 0x100 * x.val)

/-- The word of an instruction, from the match column of R95 and its fields (R104). -/
def encode : Instr → Word
  | .cls => 0x00E0#16
  | .ret => 0x00EE#16
  | .jp nnn => wordNNN 0x1000 nnn
  | .call nnn => wordNNN 0x2000 nnn
  | .seByte x nn => wordXNN 0x3000 x nn
  | .sneByte x nn => wordXNN 0x4000 x nn
  | .seReg x y => wordXY 0x5000 x y
  | .ldByte x nn => wordXNN 0x6000 x nn
  | .addByte x nn => wordXNN 0x7000 x nn
  | .ldReg x y => wordXY 0x8000 x y
  | .orReg x y => wordXY 0x8001 x y
  | .andReg x y => wordXY 0x8002 x y
  | .xorReg x y => wordXY 0x8003 x y
  | .addReg x y => wordXY 0x8004 x y
  | .subReg x y => wordXY 0x8005 x y
  | .shr x y => wordXY 0x8006 x y
  | .subnReg x y => wordXY 0x8007 x y
  | .shl x y => wordXY 0x800E x y
  | .sneReg x y => wordXY 0x9000 x y
  | .ldI nnn => wordNNN 0xA000 nnn
  | .jpV0 nnn => wordNNN 0xB000 nnn
  | .rnd x nn => wordXNN 0xC000 x nn
  | .drw x y n => wordXY (0xD000 + n % 16) x y
  | .skp x => wordX 0xE09E x
  | .sknp x => wordX 0xE0A1 x
  | .getDelay x => wordX 0xF007 x
  | .waitKey x => wordX 0xF00A x
  | .setDelay x => wordX 0xF015 x
  | .setSound x => wordX 0xF018 x
  | .addI x => wordX 0xF01E x
  | .ldFont x => wordX 0xF029 x
  | .bcd x => wordX 0xF033 x
  | .storeRegs x => wordX 0xF055 x
  | .loadRegs x => wordX 0xF065 x

/-- The two bytes of an instruction as memory holds them, high byte first (R62, R90). -/
def encodeBytes (i : Instr) : List Byte := [highByte (encode i), lowByte (encode i)]

/-- A row of the opcode map: a word `w` is that instruction exactly when `w AND mask = pattern` (R95). -/
structure Row where
  mnemonic : String
  mask : Word
  pattern : Word
  deriving DecidableEq, Repr

/-- The opcode map, families 0 to 7 (R95). -/
def opcodeRowsLow : List Row :=
  [⟨"00E0", 0xFFFF, 0x00E0⟩, ⟨"00EE", 0xFFFF, 0x00EE⟩, ⟨"1NNN", 0xF000, 0x1000⟩, ⟨"2NNN", 0xF000, 0x2000⟩,
   ⟨"3XNN", 0xF000, 0x3000⟩, ⟨"4XNN", 0xF000, 0x4000⟩, ⟨"5XY0", 0xF00F, 0x5000⟩, ⟨"6XNN", 0xF000, 0x6000⟩,
   ⟨"7XNN", 0xF000, 0x7000⟩]

/-- The opcode map, family 8 (R95). -/
def opcodeRows8 : List Row :=
  [⟨"8XY0", 0xF00F, 0x8000⟩, ⟨"8XY1", 0xF00F, 0x8001⟩, ⟨"8XY2", 0xF00F, 0x8002⟩, ⟨"8XY3", 0xF00F, 0x8003⟩,
   ⟨"8XY4", 0xF00F, 0x8004⟩, ⟨"8XY5", 0xF00F, 0x8005⟩, ⟨"8XY6", 0xF00F, 0x8006⟩, ⟨"8XY7", 0xF00F, 0x8007⟩,
   ⟨"8XYE", 0xF00F, 0x800E⟩]

/-- The opcode map, families 9 to F (R95). -/
def opcodeRowsHigh : List Row :=
  [⟨"9XY0", 0xF00F, 0x9000⟩, ⟨"ANNN", 0xF000, 0xA000⟩, ⟨"BNNN", 0xF000, 0xB000⟩, ⟨"CXNN", 0xF000, 0xC000⟩,
   ⟨"DXYN", 0xF000, 0xD000⟩, ⟨"EX9E", 0xF0FF, 0xE09E⟩, ⟨"EXA1", 0xF0FF, 0xE0A1⟩, ⟨"FX07", 0xF0FF, 0xF007⟩,
   ⟨"FX0A", 0xF0FF, 0xF00A⟩, ⟨"FX15", 0xF0FF, 0xF015⟩, ⟨"FX18", 0xF0FF, 0xF018⟩, ⟨"FX1E", 0xF0FF, 0xF01E⟩,
   ⟨"FX29", 0xF0FF, 0xF029⟩, ⟨"FX33", 0xF0FF, 0xF033⟩, ⟨"FX55", 0xF0FF, 0xF055⟩, ⟨"FX65", 0xF0FF, 0xF065⟩]

/-- The opcode map of R95, 34 rows. -/
def opcodeMap : List Row := opcodeRowsLow ++ opcodeRows8 ++ opcodeRowsHigh

/-- The word `w` matches the row (R95). -/
def Row.isMatch (r : Row) (w : Word) : Bool := (w &&& r.mask) == r.pattern

/-- The normative name of an instruction: its hexadecimal pattern (R102). -/
def Instr.mnemonic : Instr → String
  | .cls => "00E0"
  | .ret => "00EE"
  | .jp _ => "1NNN"
  | .call _ => "2NNN"
  | .seByte _ _ => "3XNN"
  | .sneByte _ _ => "4XNN"
  | .seReg _ _ => "5XY0"
  | .ldByte _ _ => "6XNN"
  | .addByte _ _ => "7XNN"
  | .ldReg _ _ => "8XY0"
  | .orReg _ _ => "8XY1"
  | .andReg _ _ => "8XY2"
  | .xorReg _ _ => "8XY3"
  | .addReg _ _ => "8XY4"
  | .subReg _ _ => "8XY5"
  | .shr _ _ => "8XY6"
  | .subnReg _ _ => "8XY7"
  | .shl _ _ => "8XYE"
  | .sneReg _ _ => "9XY0"
  | .ldI _ => "ANNN"
  | .jpV0 _ => "BNNN"
  | .rnd _ _ => "CXNN"
  | .drw _ _ _ => "DXYN"
  | .skp _ => "EX9E"
  | .sknp _ => "EXA1"
  | .getDelay _ => "FX07"
  | .waitKey _ => "FX0A"
  | .setDelay _ => "FX15"
  | .setSound _ => "FX18"
  | .addI _ => "FX1E"
  | .ldFont _ => "FX29"
  | .bcd _ => "FX33"
  | .storeRegs _ => "FX55"
  | .loadRegs _ => "FX65"

/-- The instruction the decoder reads from a table word: the low `nbits` bits of `w` (all higher bits 0), laid out as two
bytes, high byte first (R62, R90). -/
def decodeTableWord (nbits w : Nat) : Option Instr :=
  match decode [highByte (BitVec.ofNat 16 (w % 2 ^ nbits)), lowByte (BitVec.ofNat 16 (w % 2 ^ nbits))] with
  | .ok (i, _) => some i
  | .error _ => none

end Sys2Proof
end

