-- ==== Sys2Proof/Config.lean ====
section
/-! DEFINITION. What the implementation fixes (spec/00_scope.md R4, spec/92_eei_decisions.md) and the free values of the model. -/

namespace Sys2Proof.Config

/-- `STACK_DEPTH`: the number of call-stack entries (R4, R24, D2). Log entry 15. -/
abbrev stackDepth : Nat := 16

/-- `CALL_LINK_OFFSET`: what 2NNN adds to the address of the call (R4, R142, D1). Log entry 15. -/
abbrev callLinkOffset : Nat := 2

/-- `MEM_SIZE`: the bytes of memory, valid addresses 0 to 4095 (R4, R60). -/
abbrev memSize : Nat := 4096

/-- `PC_RESET`: `PC` after a reset, and the load address of a program (R4, R26). -/
abbrev pcReset : Nat := 0x200

/-- `ROM_MAX`: the largest program in bytes (R4, R76). -/
abbrev romMax : Nat := 3584

/-- `FONT_SIZE`: the bytes of the font table (R4, R77). -/
abbrev fontSize : Nat := 80

/-- `GLYPH_BYTES`: the bytes of one font glyph (R4, R192). -/
abbrev glyphBytes : Nat := 5

/-- `FB_W`: the display columns (R4, R30). -/
abbrev fbWidth : Nat := 64

/-- `FB_H`: the display rows (R4, R30). -/
abbrev fbHeight : Nat := 32

/-- FREE VALUE. The key sample of the cycle taken at time `t` while no event is queued: "a free 16-bit input, unrelated
to the samples of other cycles" (R6, R230, D14). Log entry 4. -/
opaque keySample : Nat → Word

/-- FREE VALUE. The random byte of the cycle taken at time `t` while no event is queued: "a free 8-bit value, new for
each execution" (R6, R171, D15). Log entry 5. -/
opaque rndByte : Nat → Byte

/-- FREE VALUE. How many ticks pass before the cycle taken at time `t` while no event is queued: "any number of `tick`
events (zero or more)" (R127, D22). Log entry 6. -/
opaque tickCount : Nat → Nat

end Sys2Proof.Config
end

