-- ==== Sys2Proof/Machine/State.lean ====
section
/-! DEFINITION. The state of the machine as plain data (spec/10_state.md R20 to R37), the reasons a step can stop, the state
after `reset_all` (R36, R290). -/

namespace Sys2Proof.Machine

/-- `MEM`: the listed bytes, addresses strictly rising, no entry equal to what an unlisted address reads as (R29, R60;
log entry 7). Read and written only by the operations of Machine/Ops.lean. -/
abbrev Memory := List Host.Cell

/-- `FB[y][x]`: 32 rows of 64 pixels, `true` is lit (R30). -/
abbrev Grid := Vector (Vector Bool Config.fbWidth) Config.fbHeight

/-- The four fatal conditions of the core (R250). Each is raised by an operation of Machine/Ops.lean and TAKEN as the spec
describes: the cycle goes to a next state in which the `FAULT` record is latched and the core is stopped (R256; log
entry 1). No step answers `Host.Outcome.fault`: that outcome has no state to hold the record. -/
inductive Fault where
  /-- OutOfBounds, code 1: raised by a fetch at `PC >= 4095` and by DXYN, FX33, FX55, FX65 whose run passes 4095; `addr` is
  the lowest offending address (R251). Safe: the hardware stops too. -/
  | outOfBounds (addr : Nat)
  /-- UnrecognizedOpcode, code 2: raised by the decode of a word that matches no row of R95 (R252). Safe: the spec takes
  "halt" of the two treatments its source allows. -/
  | unrecognizedOpcode (w : Word)
  /-- StackOverflow, code 3: raised by 2NNN with `SP` = 16 (R253). Safe: the hardware stops too. -/
  | stackOverflow
  /-- StackUnderflow, code 4: raised by 00EE with `SP` = 0 (R254). Safe: the hardware stops too. -/
  | stackUnderflow
  deriving DecidableEq, Repr

/-- Why the model gives a step no meaning. -/
inductive Refusal where
  /-- raised by an arm of `exec` for an instruction that has no meaning yet; no arm does. Safe. -/
  | notModelled (mnemonic : String)
  /-- raised by a load event while the core is running: "A model gives a load between two cycles of a running core no
  meaning (refuse)" (R78, D29). Safe. -/
  | loadWhileRunning
  deriving DecidableEq, Repr

/-- The latched fault record (R34, R255). `word = none` is `word_valid` = 0 and `addr = none` is `addr_valid` = 0: a field
whose valid bit is 0 is unspecified, and the record does not hold one (log entry 2). -/
structure FaultRecord where
  /-- the code of R250 -/
  cause : BitVec 3
  /-- the address of the instruction being fetched or executed -/
  pc : Addr
  /-- the word, where one was fetched -/
  word : Option Word
  /-- the lowest offending address, for OutOfBounds -/
  addr : Option Addr
  deriving DecidableEq, Repr

/-- The answer of a load transaction to the host (R76, R259). -/
inductive LoadResult where
  /-- the bytes were copied -/
  | loaded
  /-- the program is longer than 3584 bytes and memory was left unmodified -/
  | romTooLarge
  deriving DecidableEq, Repr

/-- An event at the boundary of the block, atomic with respect to the others (R5, R127). Values that the spec leaves open
or unspecified come with the event, as data nothing constrains (log entries 3, 4, 5, 9). -/
inductive Event where
  /-- `cycle`, with the key sample and the random byte it is given (R6, R120) -/
  | cycle (keys : Word) (rnd : Byte)
  /-- `tick` (R238) -/
  | tick
  /-- `reset_core`, with the value that `KPREV` is left with, unspecified (R36, R291) -/
  | resetCore (kprev : Word)
  /-- `reset_all`, with `MEM_INIT` and the values `STK` and `KPREV` are left with, unspecified (R36, R290) -/
  | resetAll (memInit : List Byte) (stk : Vector Addr Config.stackDepth) (kprev : Word)
  /-- the font load, with `FONT` (R77, D18) -/
  | loadFont (font : Vector Byte Config.fontSize)
  /-- the program load (R76) -/
  | loadProgram (bytes : List Byte)
  deriving DecidableEq, Repr

/-- What stands outside the block: the inputs of the current cycle and what the host does. The MODEL's own fields; the spec
calls `KEYS` and `RND` inputs, not state (R6, R32, R35). Their reset values are log entry 12. -/
structure Env where
  /-- the key sample of the current cycle (R230; log entry 4) -/
  keys : Word
  /-- the random byte of the current cycle (R171; log entry 5) -/
  rnd : Byte
  /-- the events that happen next, first first; while it is empty the core takes cycles with free inputs (log entry 3) -/
  events : List Event
  /-- the argument of the free values, one more at each step -/
  time : Nat
  /-- no cycle was taken since the last reset (R78, R293; log entry 10) -/
  fresh : Bool
  /-- the answer of the last load (R76; log entry 10) -/
  loadResult : Option LoadResult
  deriving DecidableEq, Repr

/-- The state of the machine (R20 to R37), and of what stands around it. -/
structure State where
  /-- `V[0..15]`, `V[15]` is `VF` (R20, R22) -/
  v : Vector Byte 16
  /-- `I` (R23) -/
  index : Addr
  /-- `PC` (R26) -/
  pc : Addr
  /-- `SP`, 0 to 16 (R24) -/
  sp : Fin (Config.stackDepth + 1)
  /-- `STK[0..15]` (R24) -/
  stk : Vector Addr Config.stackDepth
  /-- `MEM` (R29) -/
  mem : Memory
  /-- `FB` (R30) -/
  fb : Grid
  /-- `DT`, the delay timer (R31) -/
  dt : Byte
  /-- `ST`, the sound timer (R31) -/
  st : Byte
  /-- `KW`, the key wait is active (R33) -/
  kw : Bool
  /-- `KPREV`, the last key sample while waiting (R33) -/
  kprev : Word
  /-- `FAULT`; `none` is `valid` = 0 (R34) -/
  fault : Option FaultRecord
  /-- the inputs and the host's side -/
  env : Env
  deriving DecidableEq, Repr

/-- A dark grid (R30). -/
def Grid.dark : Grid := Vector.replicate Config.fbHeight (Vector.replicate Config.fbWidth false)

/-- The inputs and the host's side after reset: no event pending, no load made. DESIGN CHOICE, log entry 12. -/
def Env.reset : Env :=
  { keys := 0, rnd := 0, events := [], time := 0, fresh := true, loadResult := none }

/-- The machine right after `reset_all` (R36, R290). `STK`, `KPREV` are left unspecified by the spec: 0 is a DESIGN CHOICE,
log entry 8. `MEM_INIT` is open: nothing listed is a DESIGN CHOICE, log entry 7. -/
def State.reset : State :=
  { v := Vector.replicate 16 0
    index := 0
    pc := BitVec.ofNat 16 Config.pcReset
    sp := 0
    stk := Vector.replicate Config.stackDepth 0
    mem := []
    fb := Grid.dark
    dt := 0
    st := 0
    kw := false
    kprev := 0
    fault := none
    env := Env.reset }

end Sys2Proof.Machine
end

