-- ==== Sys2Proof/Machine/Ops.lean ====
section
/-! DEFINITION. The named operations over registers, memory, the call stack and `PC`; taking a fault and the resets that leave
it (spec/20_memory.md, spec/40_cycle.md, spec/60_exceptions.md, spec/70_reset_and_hazards.md). -/

namespace Sys2Proof.Machine

/-- The outcome of a step of this machine. -/
abbrev Outcome := Host.Outcome State Fault Refusal

/-! ### Registers, `I`, `PC` -/

/-- `V[r]` (R20). -/
def State.reg (s : State) (r : Reg) : Byte := s.v[r.val]

/-- `V[r] <- b` (R20). No register is hard-wired. -/
def State.setReg (s : State) (r : Reg) (b : Byte) : State := { s with v := s.v.set r.val b }

/-- `VF` is `V[15]` (R22). -/
def flagReg : Reg := 15

/-- `VF <- b` (R22). -/
def State.setFlag (s : State) (b : Byte) : State := s.setReg flagReg b

/-- `I <- a` (R23). -/
def State.setIndex (s : State) (a : Addr) : State := { s with index := a }

/-- `PC <- a` (R26). -/
def State.setPc (s : State) (a : Addr) : State := { s with pc := a }

/-- The sequential class: `PC <- (pc0 + 2) mod 65536` (R123). -/
def State.advance (s : State) : State := s.setPc (s.pc + 2)

/-- The conditional skip class: `pc0 + 4` if the condition holds, else `pc0 + 2`; the skipped bytes are not looked at
(R123). -/
def State.skipIf (s : State) (c : Bool) : State := s.setPc (if c then s.pc + 4 else s.pc + 2)

/-- `MEM <- m`. -/
def State.setMem (s : State) (m : Memory) : State := { s with mem := m }

/-- `FB <- g`. -/
def State.setGrid (s : State) (g : Grid) : State := { s with fb := g }

/-- `DT <- b` (R31). -/
def State.setDt (s : State) (b : Byte) : State := { s with dt := b }

/-- `ST <- b` (R31). -/
def State.setSt (s : State) (b : Byte) : State := { s with st := b }

/-- `KW <- w`, `KPREV <- k` (R33). -/
def State.setKeyWait (s : State) (w : Bool) (k : Word) : State := { s with kw := w, kprev := k }

/-- Change what stands outside the block. -/
def State.setEnv (s : State) (e : Env) : State := { s with env := e }

/-! ### Memory -/

/-- What an unlisted address reads as: the spec leaves `MEM_INIT` open (D17). DESIGN CHOICE, unsafe, log entry 7. -/
def Memory.unlisted : Byte := 0

/-- The byte at an address. -/
def Memory.read : Memory → Nat → Byte
  | [], _ => Memory.unlisted
  | c :: m, a => if c.1 = a then c.2 else Memory.read m a

/-- List a byte in front of the first entry with a higher address. -/
def Memory.list : Memory → Nat → Byte → Memory
  | [], a, b => [(a, b)]
  | c :: m, a, b => if a < c.1 then (a, b) :: c :: m else c :: Memory.list m a b

/-- `MEM[a] <- b`, keeping the canonical form: the old entry goes, and a byte that an unlisted address reads as is not
listed. -/
def Memory.write (m : Memory) (a : Nat) (b : Byte) : Memory :=
  let rest := m.filter (fun c => c.1 != a)
  if b = Memory.unlisted then rest else Memory.list rest a b

/-- The canonical form: addresses below `MEM_SIZE`, strictly rising, no entry equal to what an unlisted address reads
as. -/
def Memory.wf : Memory → Bool
  | [] => true
  | c :: m => decide (c.1 < Config.memSize) && decide (c.2 ≠ Memory.unlisted) && m.all (fun d => decide (c.1 < d.1)) && Memory.wf m

/-- The byte the state holds at an address. -/
def State.byteAt (s : State) (a : Nat) : Byte := s.mem.read a

/-- `MemRead(addr, 1)` (R66). -/
def memRead (m : Memory) (addr : Nat) : Except Fault Byte :=
  if addr < Config.memSize then .ok (m.read addr) else .error (.outOfBounds addr)

/-- `MemRead(addr, 2)`, big-endian, for instruction fetch only (R62, R66). -/
def memRead2 (m : Memory) (addr : Nat) : Except Fault Word :=
  if addr + 1 < Config.memSize then .ok (wordOfBytes (m.read addr) (m.read (addr + 1)))
  else .error (.outOfBounds (max addr Config.memSize))

/-- `MemWrite(addr, 1, b)` (R67). -/
def memWrite (m : Memory) (addr : Nat) (b : Byte) : Except Fault Memory :=
  if addr < Config.memSize then .ok (m.write addr b) else .error (.outOfBounds addr)

/-- The check of a whole run of `len` addresses from `base`, before anything is changed; the sum is not reduced
(R68, R69). -/
def checkRun (base len : Nat) : Except Fault Unit :=
  if 0 < len ∧ Config.memSize ≤ base + len - 1 then .error (.outOfBounds (max base Config.memSize)) else .ok ()

/-- Read `len` bytes from `base` on, lowest address first (R63). -/
def loadRun (m : Memory) (base : Nat) : Nat → Except Fault (List Byte)
  | 0 => .ok []
  | len + 1 =>
    match memRead m base with
    | .error f => .error f
    | .ok b =>
      match loadRun m (base + 1) len with
      | .error f => .error f
      | .ok bs => .ok (b :: bs)

/-- Store bytes from `base` on, lowest address first (R63). -/
def storeRun (m : Memory) (base : Nat) : List Byte → Except Fault Memory
  | [] => .ok m
  | b :: bs =>
    match memWrite m base b with
    | .error f => .error f
    | .ok m' => storeRun m' (base + 1) bs

/-- The bytes a host load lays down from `base` on; an address past the end of memory takes none (R76, R77). -/
def Memory.copyIn (m : Memory) (base : Nat) : List Byte → Memory
  | [] => m
  | b :: bs => Memory.copyIn (if base < Config.memSize then m.write base b else m) (base + 1) bs

/-- `V[k] <- b0`, `V[k+1] <- b1`, ... (R195). -/
def State.setRegRun (s : State) (k : Nat) : List Byte → State
  | [] => s
  | b :: bs => State.setRegRun (if h : k < 16 then s.setReg ⟨k, h⟩ b else s) (k + 1) bs

/-- `V[0]` to `V[x]`, `x` inclusive (R194). -/
def State.regRun (s : State) (x : Reg) : List Byte := s.v.toList.take (x.val + 1)

/-! ### The call stack -/

/-- Push a return address: StackOverflow when every entry is in use (R25, R142). -/
def push (s : State) (a : Addr) : Except Fault State :=
  if h : s.sp.val < Config.stackDepth then
    .ok { s with stk := s.stk.set s.sp.val a, sp := ⟨s.sp.val + 1, Nat.succ_lt_succ h⟩ }
  else .error .stackOverflow

/-- Pop a return address: StackUnderflow when no entry is in use; the entry keeps its value (R25, R140). -/
def pop (s : State) : Except Fault (Addr × State) :=
  match s.sp with
  | ⟨0, _⟩ => .error .stackUnderflow
  | ⟨n + 1, h⟩ =>
    .ok (s.stk[n]'(Nat.lt_of_succ_lt_succ h), { s with sp := ⟨n, Nat.lt_of_succ_lt h⟩ })

/-! ### Taking a fault, and the way out of it -/

/-- The code of a fault (R250). -/
def Fault.code : Fault → BitVec 3
  | .outOfBounds _ => 1
  | .unrecognizedOpcode _ => 2
  | .stackOverflow => 3
  | .stackUnderflow => 4

/-- The address a fault records: OutOfBounds only (R255). -/
def Fault.recordedAddr : Fault → Option Addr
  | .outOfBounds a => some (BitVec.ofNat 16 a)
  | .unrecognizedOpcode _ => none
  | .stackOverflow => none
  | .stackUnderflow => none

/-- Fault entry: the record is latched and nothing else changes; control goes nowhere (R255, R256, R257). `word` is the
fetched word, `none` for a fault at fetch. -/
def State.takeFault (s : State) (f : Fault) (word : Option Word) : State :=
  { s with fault := some { cause := f.code, pc := s.pc, word := word, addr := f.recordedAddr } }

/-- End the execution of an instruction: its next state, or the fault taken from the state it began in, so that a faulting
instruction leaves nothing behind (R126, R257). The record holds the instruction's word (log entry 19). -/
def finish (i : Instr) (s : State) : Except Fault State → Outcome
  | .ok t => .next t
  | .error f => .next (s.takeFault f (some (encode i)))

/-- `reset_core`: a fresh interpreter over the existing memory, display and timers; the way out of a fault (R291, R292).
`KPREV` is left unspecified: `kprev` is any value (R36). -/
def State.resetCore (s : State) (kprev : Word) : State :=
  { s with
    v := Vector.replicate 16 0
    index := 0
    pc := BitVec.ofNat 16 Config.pcReset
    sp := 0
    kw := false
    kprev := kprev
    fault := none
    env := { s.env with fresh := true } }

/-- `reset_all`: every component constructed (R290). `MEM_INIT`, `STK` and `KPREV` are left unspecified: any values (R36);
an image shorter than memory is followed by unlisted bytes. -/
def State.resetAll (s : State) (memInit : List Byte) (stk : Vector Addr Config.stackDepth) (kprev : Word) : State :=
  { s.resetCore kprev with
    stk := stk
    mem := Memory.copyIn [] 0 memInit
    fb := Grid.dark
    dt := 0
    st := 0 }

end Sys2Proof.Machine
end

