-- ==== Sys2Proof/Machine/Operands.lean ====
section
/-! DEFINITION. The operand forms of the instructions (spec/30_encoding.md R92, R93; spec/43_index_memory.md R196;
spec/45_keypad_timers.md R230, R231). -/

namespace Sys2Proof.Machine

/-- A byte zero-extended to 16 bits (R9, R93). -/
def zext16 (b : Byte) : Addr := BitVec.ofNat 16 b.toNat

/-- The base `I` of a data access, as an unbounded number (R69, R196). -/
def State.base (s : State) : Nat := s.index.toNat

/-- The offset operand of BNNN, always `V[0]` (R143). -/
def State.jumpOffset (s : State) : Addr := zext16 (s.reg 0)

/-- `pressed(v)`: the sample's bit for a key code 0 to 15; a code above 15 is not pressed (R231). -/
def pressed (k : Word) (v : Byte) : Bool := decide (v.toNat ≤ 15) && k.getLsbD v.toNat

/-- The keys down now that were up at the previous poll: `k AND NOT KPREV` (R234). -/
def newlyDown (k kprev : Word) : Word := k &&& ~~~kprev

/-- The smallest `j` with bit `j` set, if there is one (R234). -/
def lowestKey (new : Word) : Option Nat := (List.range 16).find? (fun j => new.getLsbD j)

/-- Hundreds, tens, ones (R193). -/
def bcdDigits (b : Byte) : List Byte :=
  [BitVec.ofNat 8 (b.toNat / 100), BitVec.ofNat 8 (b.toNat / 10 % 10), BitVec.ofNat 8 (b.toNat % 10)]

/-- The address of a font glyph: the whole byte times `GLYPH_BYTES`, not reduced to a nibble (R192, D21). -/
def glyphAddr (b : Byte) : Addr := BitVec.ofNat 16 (b.toNat * Config.glyphBytes)

end Sys2Proof.Machine
end

