-- ==== Sys2Proof/Machine/Flags.lean ====
section
/-! DEFINITION. The values written to `VF` as a flag (spec/10_state.md R22), each exactly 0 or 1. -/

namespace Sys2Proof.Machine

/-- A condition as a flag byte. -/
def flagByte (c : Bool) : Byte := if c then 1 else 0

/-- 8XY4: 1 if the sum passes 255 (R166). -/
def carryFlag (a b : Byte) : Byte := flagByte (decide (a.toNat + b.toNat > 255))

/-- 8XY5 and 8XY7: 1 if `a - b` does not borrow, that is `a >= b` (R167, R169). -/
def notBorrowFlag (a b : Byte) : Byte := flagByte (decide (a.toNat ≥ b.toNat))

/-- 8XY6: bit 0, the bit shifted out to the right (R168). -/
def lowBitFlag (a : Byte) : Byte := flagByte (a.getLsbD 0)

/-- 8XYE: bit 7, the bit shifted out to the left (R170). -/
def highBitFlag (a : Byte) : Byte := flagByte (a.getLsbD 7)

/-- `(a + b) mod 256` (R172). -/
def addWrap (a b : Byte) : Byte := BitVec.ofNat 8 (a.toNat + b.toNat)

/-- `(a - b) mod 256` (R172). -/
def subWrap (a b : Byte) : Byte := BitVec.ofNat 8 (a.toNat + 256 - b.toNat)

/-- `a >> 1`, bit 7 becomes 0 (R168). -/
def shiftRight1 (a : Byte) : Byte := BitVec.ofNat 8 (a.toNat / 2)

/-- `(a << 1) mod 256`, bit 0 becomes 0 (R170). -/
def shiftLeft1 (a : Byte) : Byte := BitVec.ofNat 8 (a.toNat * 2)

end Sys2Proof.Machine
end

