-- ==== Sys2Proof/Machine/Alu.lean ====
section
/-! DEFINITION. Register and arithmetic instructions: 6XNN, 7XNN, 8XY0 to 8XY7, 8XYE, CXNN (spec/42_alu.md R160 to R171). The
statements of each are performed in the spec's order (R124), which is what a form naming `V[15]` shows. -/

namespace Sys2Proof.Machine

/-- 6XNN (R160). -/
def execLdByte (x : Reg) (nn : Byte) (s : State) : Outcome := .next (s.setReg x nn).advance

/-- 7XNN: no flag (R161). -/
def execAddByte (x : Reg) (nn : Byte) (s : State) : Outcome := .next (s.setReg x (addWrap (s.reg x) nn)).advance

/-- 8XY0 (R162). -/
def execLdReg (x y : Reg) (s : State) : Outcome := .next (s.setReg x (s.reg y)).advance

/-- 8XY1: `VF` keeps its value (R163). -/
def execOrReg (x y : Reg) (s : State) : Outcome := .next (s.setReg x (s.reg x ||| s.reg y)).advance

/-- 8XY2: `VF` keeps its value (R164). -/
def execAndReg (x y : Reg) (s : State) : Outcome := .next (s.setReg x (s.reg x &&& s.reg y)).advance

/-- 8XY3: `VF` keeps its value (R165). -/
def execXorReg (x y : Reg) (s : State) : Outcome := .next (s.setReg x (s.reg x ^^^ s.reg y)).advance

/-- 8XY4: the sum, then the carry (R166). -/
def execAddReg (x y : Reg) (s : State) : Outcome :=
  .next ((s.setReg x (addWrap (s.reg x) (s.reg y))).setFlag (carryFlag (s.reg x) (s.reg y))).advance

/-- 8XY5: the difference, then NOT borrow (R167). -/
def execSubReg (x y : Reg) (s : State) : Outcome :=
  .next ((s.setReg x (subWrap (s.reg x) (s.reg y))).setFlag (notBorrowFlag (s.reg x) (s.reg y))).advance

/-- 8XY6: the flag first, then the shift, which reads `V[X]` again; Y is ignored (R100, R168). -/
def execShr (x _y : Reg) (s : State) : Outcome :=
  let t := s.setFlag (lowBitFlag (s.reg x))
  .next (t.setReg x (shiftRight1 (t.reg x))).advance

/-- 8XY7: the reverse difference, then NOT borrow (R169). -/
def execSubnReg (x y : Reg) (s : State) : Outcome :=
  .next ((s.setReg x (subWrap (s.reg y) (s.reg x))).setFlag (notBorrowFlag (s.reg y) (s.reg x))).advance

/-- 8XYE: the flag first, then the shift, which reads `V[X]` again; Y is ignored (R100, R170). -/
def execShl (x _y : Reg) (s : State) : Outcome :=
  let t := s.setFlag (highBitFlag (s.reg x))
  .next (t.setReg x (shiftLeft1 (t.reg x))).advance

/-- CXNN: the random byte of this cycle, masked (R171; log entry 5). -/
def execRnd (x : Reg) (nn : Byte) (s : State) : Outcome := .next (s.setReg x (s.env.rnd &&& nn)).advance

end Sys2Proof.Machine
end

