-- ==== Sys2Proof/Machine/Display.lean ====
section
/-! DEFINITION. The display: pixel access, the pixel composer and collision detector, 00E0, DXYN (spec/44_display.md R210 to
R214). -/

namespace Sys2Proof.Machine

/-- `isPixelOn(x, y)`: false outside the grid (R210). -/
def Grid.isOn (g : Grid) (x y : Nat) : Bool :=
  if h : x < Config.fbWidth ∧ y < Config.fbHeight then (g[y]'h.2)[x]'h.1 else false

/-- `setPixel(x, y, on)`: nothing outside the grid (R210). -/
def Grid.setPixel (g : Grid) (x y : Nat) (on : Bool) : Grid :=
  if h : x < Config.fbWidth ∧ y < Config.fbHeight then g.set y ((g[y]'h.2).set x on h.1) h.2 else g

/-- The pixel `(x, y)` of the state's grid. -/
def State.pixel (s : State) (x y : Nat) : Bool := s.fb.isOn x y

/-- One sprite bit at a pixel: a 0 bit does nothing, a 1 bit toggles and detects a lit pixel (R211). -/
def Grid.composeBit (g : Grid) (x y : Nat) (bit : Bool) : Grid × Bool :=
  if bit then (g.setPixel x y (g.isOn x y ^^ true), g.isOn x y) else (g, false)

/-- The columns `c` of a list, in order, of `compose(x, y, b)`; bit `7 - c` falls at column `x + c` (R211; log entry 16). -/
def Grid.composeCols (g : Grid) (x y : Nat) (b : Byte) : List Nat → Grid × Bool
  | [] => (g, false)
  | c :: cs =>
    let p := g.composeBit (x + c) y (b.getLsbD (7 - c))
    let q := Grid.composeCols p.1 x y b cs
    (q.1, p.2 || q.2)

/-- `compose(x, y, b)`: one sprite row; the second component is "any bit transitioned from on to off" (R211). -/
def Grid.compose (g : Grid) (x y : Nat) (b : Byte) : Grid × Bool := g.composeCols x y b [0, 1, 2, 3, 4, 5, 6, 7]

/-- Sprite rows from row `y` down; the collisions are ORed (R213). No coordinate is reduced (R214). -/
def Grid.drawRows (g : Grid) (x y : Nat) : List Byte → Grid × Bool
  | [] => (g, false)
  | b :: bs =>
    let p := g.compose x y b
    let q := Grid.drawRows p.1 x (y + 1) bs
    (q.1, p.2 || q.2)

/-- 00E0: every pixel dark, `VF` not written (R212). -/
def execCls (s : State) : Outcome := .next (s.setGrid Grid.dark).advance

/-- DXYN: the coordinates are read before `VF` is written, the whole run is checked first, `VF` is written once (R213). -/
def execDrw (x y : Reg) (n : Nat) (s : State) : Outcome :=
  finish (.drw x y n) s (match checkRun s.base n with
    | .error f => .error f
    | .ok _ =>
      match loadRun s.mem s.base n with
      | .error f => .error f
      | .ok rows =>
        let p := s.fb.drawRows (s.reg x).toNat (s.reg y).toNat rows
        .ok ((s.setGrid p.1).setFlag (flagByte p.2)).advance)

end Sys2Proof.Machine
end

