-- ==== Sys2Proof/Machine/Flow.lean ====
section
/-! DEFINITION. Control transfer: 00EE, 1NNN, 2NNN, BNNN, 3XNN, 4XNN, 5XY0, 9XY0 (spec/41_flow.md R140 to R147). -/

namespace Sys2Proof.Machine

/-- 00EE: pop the stack into `PC`; nothing is added (R140). -/
def execRet (s : State) : Outcome :=
  finish .ret s (match pop s with
    | .error f => .error f
    | .ok (a, t) => .ok (t.setPc a))

/-- 1NNN (R141). -/
def execJp (nnn : Addr) (s : State) : Outcome := .next (s.setPc nnn)

/-- 2NNN: push `pc0 + CALL_LINK_OFFSET`, then jump (R142). -/
def execCall (nnn : Addr) (s : State) : Outcome :=
  finish (.call nnn) s (match push s (s.pc + BitVec.ofNat 16 Config.callLinkOffset) with
    | .error f => .error f
    | .ok t => .ok (t.setPc nnn))

/-- BNNN: the sum is not reduced to 12 bits (R143). -/
def execJpV0 (nnn : Addr) (s : State) : Outcome := .next (s.setPc (nnn + s.jumpOffset))

/-- 3XNN (R144). -/
def execSeByte (x : Reg) (nn : Byte) (s : State) : Outcome := .next (s.skipIf (decide (s.reg x = nn)))

/-- 4XNN (R145). -/
def execSneByte (x : Reg) (nn : Byte) (s : State) : Outcome := .next (s.skipIf (decide (s.reg x ≠ nn)))

/-- 5XY0 (R146). -/
def execSeReg (x y : Reg) (s : State) : Outcome := .next (s.skipIf (decide (s.reg x = s.reg y)))

/-- 9XY0 (R147). -/
def execSneReg (x y : Reg) (s : State) : Outcome := .next (s.skipIf (decide (s.reg x ≠ s.reg y)))

end Sys2Proof.Machine
end

