-- ==== Sys2Proof/Machine/IndexMemory.lean ====
section
/-! DEFINITION. Index register and memory instructions: ANNN, FX1E, FX29, FX33, FX55, FX65 (spec/43_index_memory.md R190 to
R195). -/

namespace Sys2Proof.Machine

/-- ANNN (R190). -/
def execLdI (nnn : Addr) (s : State) : Outcome := .next (s.setIndex nnn).advance

/-- FX1E: modulo 65536, no flag, no check (R191). -/
def execAddI (x : Reg) (s : State) : Outcome := .next (s.setIndex (s.index + zext16 (s.reg x))).advance

/-- FX29 (R192). -/
def execLdFont (x : Reg) (s : State) : Outcome := .next (s.setIndex (glyphAddr (s.reg x))).advance

/-- FX33: the three decimal digits, hundreds at `I`; `I` is unchanged (R193). -/
def execBcd (x : Reg) (s : State) : Outcome :=
  finish (.bcd x) s (match checkRun s.base 3 with
    | .error f => .error f
    | .ok _ =>
      match storeRun s.mem s.base (bcdDigits (s.reg x)) with
      | .error f => .error f
      | .ok m => .ok (s.setMem m).advance)

/-- FX55: `V[0]` to `V[X]`; `I` is unchanged (R194). -/
def execStoreRegs (x : Reg) (s : State) : Outcome :=
  finish (.storeRegs x) s (match checkRun s.base (x.val + 1) with
    | .error f => .error f
    | .ok _ =>
      match storeRun s.mem s.base (s.regRun x) with
      | .error f => .error f
      | .ok m => .ok (s.setMem m).advance)

/-- FX65: `V[0]` to `V[X]`, then `I <- I + X + 1` (R195). -/
def execLoadRegs (x : Reg) (s : State) : Outcome :=
  finish (.loadRegs x) s (match checkRun s.base (x.val + 1) with
    | .error f => .error f
    | .ok _ =>
      match loadRun s.mem s.base (x.val + 1) with
      | .error f => .error f
      | .ok bs => .ok ((s.setRegRun 0 bs).setIndex (s.index + BitVec.ofNat 16 (x.val + 1))).advance)

end Sys2Proof.Machine
end

