-- ==== Sys2Proof/Machine/KeypadTimers.lean ====
section
/-! DEFINITION. Keypad and timer instructions: EX9E, EXA1, FX0A, FX07, FX15, FX18 (spec/45_keypad_timers.md R230 to R237). -/

namespace Sys2Proof.Machine

/-- EX9E (R232). -/
def execSkp (x : Reg) (s : State) : Outcome := .next (s.skipIf (pressed s.env.keys (s.reg x)))

/-- EXA1 (R233). -/
def execSknp (x : Reg) (s : State) : Outcome := .next (s.skipIf (!pressed s.env.keys (s.reg x)))

/-- One poll of FX0A while the wait is active: the lowest newly pressed key is captured, or the sample is remembered
(R234). -/
def State.pollKey (s : State) (x : Reg) : State :=
  match lowestKey (newlyDown s.env.keys s.kprev) with
  | some j => ((s.setReg x (BitVec.ofNat 8 j)).setKeyWait false s.kprev).advance
  | none => s.setKeyWait true s.env.keys

/-- FX0A: the first poll begins the wait, later polls look for a press (R234). -/
def execWaitKey (x : Reg) (s : State) : Outcome :=
  .next (if s.kw then s.pollKey x else s.setKeyWait true s.env.keys)

/-- FX07 (R235). -/
def execGetDelay (x : Reg) (s : State) : Outcome := .next (s.setReg x s.dt).advance

/-- FX15 (R236). -/
def execSetDelay (x : Reg) (s : State) : Outcome := .next (s.setDt (s.reg x)).advance

/-- FX18 (R237). -/
def execSetSound (x : Reg) (s : State) : Outcome := .next (s.setSt (s.reg x)).advance

end Sys2Proof.Machine
end

