-- ==== Sys2Proof/Machine/Events.lean ====
section
/-! DEFINITION. The events other than `cycle`: the tick (spec/45_keypad_timers.md R238), the resets (in Machine/Ops.lean), the
loads (spec/20_memory.md R76 to R78); the inputs of a cycle (R6); the outputs (R7). -/

namespace Sys2Proof.Machine

/-- A timer one tick later: it saturates at 0 (R238). -/
def tickTimer (b : Byte) : Byte := if b = 0 then 0 else b - 1

/-- `tick`: each counter on its own, nothing else (R238). -/
def State.tick (s : State) : State := { s with dt := tickTimer s.dt, st := tickTimer s.st }

/-- A timer `n` ticks later, in one go; equal to `n` single ticks. -/
def elapseTimer (b : Byte) (n : Nat) : Byte := if b = 0 then 0 else BitVec.ofNat 8 (b.toNat - n)

/-- `n` ticks (R127, R238). -/
def State.elapse (s : State) (n : Nat) : State := { s with dt := elapseTimer s.dt n, st := elapseTimer s.st n }

/-- Take the key sample and the random byte of a cycle; a cycle ends the time in which loads are allowed (R78, R120,
R230). -/
def State.sampleInputs (s : State) (keys : Word) (rnd : Byte) : State :=
  s.setEnv { s.env with keys := keys, rnd := rnd, fresh := false }

/-- The clock of the free values moves on. -/
def State.nextTime (s : State) : State := s.setEnv { s.env with time := s.env.time + 1 }

/-- The first pending event is taken from the queue. -/
def State.dropEvent (s : State) (rest : List Event) : State :=
  s.setEnv { s.env with events := rest, time := s.env.time + 1 }

/-- The load's answer to the host (R76). -/
def State.answerLoad (s : State) (r : LoadResult) : State := s.setEnv { s.env with loadResult := some r }

/-- The font load: `MEM[i] <- FONT[i]` for `i` = 0 to 79, while the core is not running (R77, R78). -/
def loadFont (font : Vector Byte Config.fontSize) (s : State) : Outcome :=
  if s.env.fresh then .next ((s.setMem (s.mem.copyIn 0 font.toList)).answerLoad .loaded)
  else .refused .loadWhileRunning

/-- The program load: copied from 0x200 on, or RomTooLarge with memory unmodified; RomTooLarge is an answer to the host, not
a fault of the core (R76, R78, R259). -/
def loadProgram (bytes : List Byte) (s : State) : Outcome :=
  if s.env.fresh then
    if bytes.length ≤ Config.romMax then
      .next ((s.setMem (s.mem.copyIn Config.pcReset bytes)).answerLoad .loaded)
    else .next (s.answerLoad .romTooLarge)
  else .refused .loadWhileRunning

/-- The value outputs of the block (R7). -/
structure Outputs where
  /-- the whole grid (R215) -/
  fb : Grid
  /-- the delay timer -/
  dt : Byte
  /-- the sound timer -/
  st : Byte
  /-- `WAITING`: the core is in the key wait of FX0A (R33) -/
  waiting : Bool
  /-- the fault record (R34) -/
  fault : Option FaultRecord
  deriving DecidableEq, Repr

/-- What the host can read; reading changes nothing (R7, R215, R268). -/
def State.outputs (s : State) : Outputs :=
  { fb := s.fb, dt := s.dt, st := s.st, waiting := s.kw, fault := s.fault }

end Sys2Proof.Machine
end

