-- ==== Sys2Proof/Machine/Cycle.lean ====
section
/-! DEFINITION. The cycle: fetch, decode, execute (spec/40_cycle.md R120 to R122, R126, R128), and which event happens
(R127). -/

namespace Sys2Proof.Machine

/-- Fetch the word at `PC` (R121). -/
def State.fetch (s : State) : Except Fault Word := memRead2 s.mem s.pc.toNat

/-- Decode and execute a fetched word; an unrecognized one faults (R122, R252). -/
def executeWord (w : Word) (s : State) : Outcome :=
  match decodeWord w with
  | none => .next (s.takeFault (.unrecognizedOpcode w) (some w))
  | some i => exec i s

/-- One cycle of a running core: fetch, decode, execute, the faults in that order (R120, R260). -/
def runCycle (s : State) : Outcome :=
  match s.fetch with
  | .error f => .next (s.takeFault f none)
  | .ok w => executeWord w s

/-- `cycle`: a stopped core does nothing at all, not even the key sample (R120, R128). -/
def cycle (keys : Word) (rnd : Byte) (s : State) : Outcome :=
  match s.fault with
  | some _ => .next s
  | none => runCycle (s.sampleInputs keys rnd)

/-- An event from the queue (R5). -/
def performEvent (e : Event) (s : State) : Outcome :=
  match e with
  | .cycle keys rnd => cycle keys rnd s
  | .tick => .next s.tick
  | .resetCore kprev => .next (s.resetCore kprev)
  | .resetAll memInit stk kprev => .next (s.resetAll memInit stk kprev)
  | .loadFont font => loadFont font s
  | .loadProgram bytes => loadProgram bytes s

/-- No event is queued: a free number of ticks, then a cycle with a free key sample and a free random byte (R6, R127, R171,
R230; log entries 3 to 6). -/
def freeCycle (s : State) : Outcome :=
  cycle (Config.keySample s.env.time) (Config.rndByte s.env.time) (s.elapse (Config.tickCount s.env.time)).nextTime

end Sys2Proof.Machine
end

