-- ==== Sys2Proof/Machine/Step.lean ====
section
/-! DEFINITION. One step of the machine: the next event (spec/00_scope.md R5, spec/40_cycle.md R127), and where the host places a
word that is to run next. -/

namespace Sys2Proof.Machine

/-- One event of the block: the first of the queue, or a free cycle when the queue is empty. -/
def step (s : State) : Host.Outcome State Fault Refusal :=
  match s.env.events with
  | [] => freeCycle s
  | e :: rest => performEvent e (s.dropEvent rest)

/-- The state with a table word stored at `PC`, high byte first, and ready to run it: no event is pending and the core is
not stopped; a `PC` that no fetch could use is moved to 0x200. Log entry 11. -/
def State.withFetchWord (s : State) (nbits w : Nat) : State :=
  let pc : Addr := if s.pc.toNat + 1 < Config.memSize then s.pc else BitVec.ofNat 16 Config.pcReset
  let word : Word := BitVec.ofNat 16 (w % 2 ^ nbits)
  { s with
    pc := pc
    mem := (s.mem.write pc.toNat (highByte word)).write (pc.toNat + 1) (lowByte word)
    fault := none
    env := { s.env with events := [] } }

end Sys2Proof.Machine
end

