-- ==== Sys2Proof/Safety.lean ====
section
/-! DEFINITION. The words the statements are written in: what one state leaves unchanged of another, the pixels a sprite covers,
the invariants of the machine. -/

namespace Sys2Proof.Machine

/-- The pieces of state an instruction can write (R37). -/
inductive Part where
  | regs | index | pc | stack | mem | fb | dt | st | keyWait | fault | env
  deriving DecidableEq, Repr

/-- `t` has everything of `s` unchanged, but for the parts listed: every register, every byte of memory, every pixel, the whole
call stack, ... (the frame of R125). -/
structure SameBut (parts : List Part) (s t : State) : Prop where
  regs : Part.regs ∉ parts → ∀ r, t.reg r = s.reg r
  index : Part.index ∉ parts → t.index = s.index
  pc : Part.pc ∉ parts → t.pc = s.pc
  stack : Part.stack ∉ parts → t.sp = s.sp ∧ t.stk = s.stk
  mem : Part.mem ∉ parts → ∀ a, t.byteAt a = s.byteAt a
  fb : Part.fb ∉ parts → ∀ x y, t.pixel x y = s.pixel x y
  dt : Part.dt ∉ parts → t.dt = s.dt
  st : Part.st ∉ parts → t.st = s.st
  keyWait : Part.keyWait ∉ parts → t.kw = s.kw ∧ t.kprev = s.kprev
  fault : Part.fault ∉ parts → t.fault = s.fault
  env : Part.env ∉ parts → t.env = s.env

/-- The parts an instruction may write, the W entries of R37's table, `PC`, and `FAULT` for the instructions of R250 that can
fault at execute. -/
def writes : Instr → List Part
  | .cls => [.fb, .pc]
  | .ret => [.stack, .pc, .fault]
  | .jp _ => [.pc]
  | .call _ => [.stack, .pc, .fault]
  | .seByte _ _ => [.pc]
  | .sneByte _ _ => [.pc]
  | .seReg _ _ => [.pc]
  | .ldByte _ _ => [.regs, .pc]
  | .addByte _ _ => [.regs, .pc]
  | .ldReg _ _ => [.regs, .pc]
  | .orReg _ _ => [.regs, .pc]
  | .andReg _ _ => [.regs, .pc]
  | .xorReg _ _ => [.regs, .pc]
  | .addReg _ _ => [.regs, .pc]
  | .subReg _ _ => [.regs, .pc]
  | .shr _ _ => [.regs, .pc]
  | .subnReg _ _ => [.regs, .pc]
  | .shl _ _ => [.regs, .pc]
  | .sneReg _ _ => [.pc]
  | .ldI _ => [.index, .pc]
  | .jpV0 _ => [.pc]
  | .rnd _ _ => [.regs, .pc]
  | .drw _ _ _ => [.regs, .fb, .pc, .fault]
  | .skp _ => [.pc]
  | .sknp _ => [.pc]
  | .getDelay _ => [.regs, .pc]
  | .waitKey _ => [.regs, .keyWait, .pc]
  | .setDelay _ => [.dt, .pc]
  | .setSound _ => [.st, .pc]
  | .addI _ => [.index, .pc]
  | .ldFont _ => [.index, .pc]
  | .bcd _ => [.mem, .pc, .fault]
  | .storeRegs _ => [.mem, .pc, .fault]
  | .loadRegs _ => [.regs, .index, .pc, .fault]

/-- The general registers an instruction may write: its `V[X]`, `VF` where R22 lists the instruction, `V[0]` to `V[X]` for FX65
(R20, R22, R37). -/
def writesReg : Instr → Reg → Bool
  | .cls, _ => false
  | .ret, _ => false
  | .jp _, _ => false
  | .call _, _ => false
  | .seByte _ _, _ => false
  | .sneByte _ _, _ => false
  | .seReg _ _, _ => false
  | .ldByte x _, r => decide (r = x)
  | .addByte x _, r => decide (r = x)
  | .ldReg x _, r => decide (r = x)
  | .orReg x _, r => decide (r = x)
  | .andReg x _, r => decide (r = x)
  | .xorReg x _, r => decide (r = x)
  | .addReg x _, r => decide (r = x ∨ r = 15)
  | .subReg x _, r => decide (r = x ∨ r = 15)
  | .shr x _, r => decide (r = x ∨ r = 15)
  | .subnReg x _, r => decide (r = x ∨ r = 15)
  | .shl x _, r => decide (r = x ∨ r = 15)
  | .sneReg _ _, _ => false
  | .ldI _, _ => false
  | .jpV0 _, _ => false
  | .rnd x _, r => decide (r = x)
  | .drw _ _ _, r => decide (r = 15)
  | .skp _, _ => false
  | .sknp _, _ => false
  | .getDelay x, r => decide (r = x)
  | .waitKey x, r => decide (r = x)
  | .setDelay _, _ => false
  | .setSound _, _ => false
  | .addI _, _ => false
  | .ldFont _, _ => false
  | .bcd _, _ => false
  | .storeRegs _, _ => false
  | .loadRegs x, r => decide (r.val ≤ x.val)

/-- A faulting cycle: the record is latched with these contents, and nothing else changes (R255, R257). -/
def Latches (s t : State) (cause : BitVec 3) (word : Option Word) (addr : Option Addr) : Prop :=
  t.fault = some { cause := cause, pc := s.pc, word := word, addr := addr } ∧ SameBut [.fault] s t

/-- The run of `len` addresses from `I` stays inside memory (R68): the condition under which DXYN, FX33, FX55 and FX65
execute without a fault. -/
def RunFits (s : State) (len : Nat) : Prop := len = 0 ∨ s.base + len ≤ 4096

/-- The sprite of DXYN has a 1 bit at the pixel `(px, py)` of the grid: row `py - V[y]` of the sprite, bit `7 - (px - V[x])`
(R211, R213, R214). -/
def spriteAt (s : State) (x y : Reg) (n px py : Nat) : Bool :=
  decide (px < 64 ∧ py < 32 ∧ (s.reg x).toNat ≤ px ∧ px < (s.reg x).toNat + 8 ∧ (s.reg y).toNat ≤ py ∧ py < (s.reg y).toNat + n) &&
    (s.byteAt (s.base + (py - (s.reg y).toNat))).getLsbD (7 - (px - (s.reg x).toNat))

/-- INVARIANT: memory is in its canonical form. -/
def MemoryCanonical (s : State) : Prop := s.mem.wf = true

/-- INVARIANT: `PC` is at most 4350, and a return address in use is at most 4096 (R27, R140). -/
def PcAndStackInRange (s : State) : Prop :=
  s.pc.toNat ≤ 4350 ∧ ∀ j, (h : j < Config.stackDepth) → j < s.sp.val → (s.stk[j]'h).toNat ≤ 4096

/-- INVARIANT: while `KW` is 1 the core is running, has taken a cycle, and the word at `PC` is an FX0A (R33). -/
def KeyWaitAtFx0A (s : State) : Prop :=
  s.kw = true → s.fault = none ∧ s.env.fresh = false ∧ ∃ w x, s.fetch = .ok w ∧ decodeWord w = some (.waitKey x)

/-- INVARIANT: a stopped core has taken a cycle since the last reset, so it takes no load (R78, R256, R293; log entry 10). -/
def StoppedCoreIsNotFresh (s : State) : Prop := s.fault ≠ none → s.env.fresh = false

/-- The contents of a fault record are as R250, R251 and R255 say for its cause. -/
def FaultRecord.Sound (r : FaultRecord) : Prop :=
  (r.cause = 1 ∧ (∃ a, r.addr = some a ∧ 4096 ≤ a.toNat) ∧ (r.word = none → 4095 ≤ r.pc.toNat)) ∨
  (r.cause = 2 ∧ r.addr = none ∧ ∃ w, r.word = some w ∧ decodeWord w = none) ∨
  (r.cause = 3 ∧ r.addr = none ∧ ∃ w nnn, r.word = some w ∧ decodeWord w = some (.call nnn)) ∨
  (r.cause = 4 ∧ r.addr = none ∧ r.word = some 0x00EE#16)

/-- INVARIANT: a latched fault record is sound, and `PC` still holds the address it records (R255, R257). -/
def FaultRecordSound (s : State) : Prop := ∀ r, s.fault = some r → r.Sound ∧ r.pc = s.pc

end Sys2Proof.Machine
end

