-- ==== Sys2Proof/Certificates/Slice0/Obligations.lean ====
section
/-! DEFINITION. The statements for the provers, each from the numbered rules its docstring names. `SameBut`, `Latches`, `RunFits`,
`spriteAt`, `writes` and the invariants are in Safety.lean. -/

open Sys2Proof Sys2Proof.Machine

/-! ### Encoding -/

/-- Decode and encode agree: the word of a well-formed instruction decodes to that instruction with every operand, and so do its
two bytes with anything after them (R92, R95, R104). -/
def Obligations.DecodeAfterEncode : Prop :=
  ∀ i : Instr, i.wellFormed = true →
    decodeWord (encode i) = some i ∧ ∀ rest, decode (encodeBytes i ++ rest) = .ok (i, rest)

/-- A word that decodes is the encoding of what it decodes to, and that is well-formed: no bit of a recognized word is lost (R101,
R104). -/
def Obligations.EncodeAfterDecode : Prop :=
  ∀ (w : Word) (i : Instr), decodeWord w = some i → encode i = w ∧ i.wellFormed = true

/-- R95: a word is the instruction of a row exactly when it matches the row's mask and pattern; no two rows match one word; a word
that matches no row is unrecognized. -/
def Obligations.DecodeFollowsOpcodeMap : Prop :=
  ∀ w : Word,
    (∀ r ∈ opcodeMap, r.isMatch w = true ↔ ∃ i, decodeWord w = some i ∧ i.mnemonic = r.mnemonic) ∧
    (∀ r ∈ opcodeMap, ∀ q ∈ opcodeMap, r.isMatch w = true → q.isMatch w = true → r = q) ∧
    (decodeWord w = none ↔ ∀ r ∈ opcodeMap, r.isMatch w = false)

/-- At least one word of each of the 16 families (the top nibble), as the spec writes them, decodes to the instruction it stands for;
six words it lists as unrecognized do not decode (R92, R95, R97). That 0x0000, 0x01E0 and 0x5121 are among these is the spec's
decisions D3 (strict matching) and D4 (no 0NNN), log entry 21. -/
def Obligations.SampleWordsDecode : Prop :=
  [0x00E0#16, 0x00EE#16, 0x1204#16, 0x220A#16, 0x3104#16, 0x4207#16, 0x5340#16, 0x6A2F#16, 0x7105#16, 0x8124#16, 0x830E#16,
    0x9340#16, 0xA300#16, 0xB3F0#16, 0xC10F#16, 0xD125#16, 0xE1A1#16, 0xF20A#16, 0xF265#16, 0x0000#16, 0x01E0#16, 0x5121#16, 0x8AB8#16, 0xE09F#16, 0xFFFF#16].map decodeWord =
  [some .cls, some .ret, some (.jp 0x204), some (.call 0x20A), some (.seByte 1 4), some (.sneByte 2 7), some (.seReg 3 4),
    some (.ldByte 10 0x2F), some (.addByte 1 5), some (.addReg 1 2), some (.shl 3 0), some (.sneReg 3 4), some (.ldI 0x300),
    some (.jpV0 0x3F0), some (.rnd 1 0x0F), some (.drw 1 2 5), some (.sknp 1), some (.waitKey 2), some (.loadRegs 2), none, none, none, none, none, none]

/-! ### The cycle and the events -/

/-- A step runs the decoded instruction. When the two bytes at `PC` decode to `i` and the core is not stopped: with no event queued,
`step` is `exec i` after a free number of ticks and the free inputs of this cycle; with a `cycle` event at the head of the queue,
`step` is `exec i` with that event's inputs (R120, R121, R122, R127; log entries 3 to 6). -/
def Obligations.StepRunsDecodedInstruction : Prop :=
  ∀ (s : State) (i : Instr), s.fault = none → s.pc.toNat ≤ 4094 →
    decode [s.byteAt s.pc.toNat, s.byteAt (s.pc.toNat + 1)] = .ok (i, []) →
    (s.env.events = [] →
      step s = exec i
        { s with
          dt := elapseTimer s.dt (Config.tickCount s.env.time)
          st := elapseTimer s.st (Config.tickCount s.env.time)
          env :=
            { s.env with
              keys := Config.keySample s.env.time
              rnd := Config.rndByte s.env.time
              time := s.env.time + 1
              fresh := false } }) ∧
    (∀ k b rest, s.env.events = .cycle k b :: rest →
      step s = exec i
        { s with env := { s.env with keys := k, rnd := b, events := rest, time := s.env.time + 1, fresh := false } })

/-- A cycle whose word is unrecognized latches UnrecognizedOpcode with the word and changes nothing else; `PC` does not move (R97,
R252, R255, R257; the spec's decisions D5, D6, D7; log entry 1). -/
def Obligations.UnrecognizedWordFaults : Prop :=
  ∀ (s : State) (k : Word) (b : Byte) (w : Word), s.fault = none → s.fetch = .ok w → decodeWord w = none →
    ∃ t, cycle k b s = .next t ∧ Latches (s.sampleInputs k b) t 2 (some w) none

/-- A cycle with `PC >= 4095` latches OutOfBounds with the lowest invalid address and no word, whatever the byte at 4095 is (R65,
R250, R255, R260; log entry 1). -/
def Obligations.FetchOutOfBoundsFaults : Prop :=
  ∀ (s : State) (k : Word) (b : Byte), s.fault = none → 4095 ≤ s.pc.toNat →
    ∃ t, cycle k b s = .next t ∧
      Latches (s.sampleInputs k b) t 1 none (some (BitVec.ofNat 16 (max s.pc.toNat 4096)))

/-- A stopped core: a `cycle` event from the queue changes nothing but the queue and the clock of the model, while a `tick` event
still counts both timers down (R128, D6). -/
def Obligations.StoppedCoreOnlyTicks : Prop :=
  ∀ (s : State) (r : FaultRecord) (rest : List Event), s.fault = some r →
    (∀ k b, s.env.events = .cycle k b :: rest → step s = .next (s.dropEvent rest)) ∧
    (s.env.events = .tick :: rest → ∃ t, step s = .next t ∧ t.fault = some r ∧
      t.dt.toNat = s.dt.toNat - 1 ∧ t.st.toNat = s.st.toNat - 1 ∧ SameBut [.dt, .st, .env] s t)

/-- A `tick` decrements each counter that is not 0, on its own, saturates at 0, and changes nothing else of the block (R238). That it is
an event of a queue, which it leaves while the clock of the free values moves on, is the model's choice (log entry 3). -/
def Obligations.TickCountsDown : Prop :=
  ∀ (s : State) (rest : List Event), s.env.events = .tick :: rest →
    ∃ t, step s = .next t ∧ t.dt.toNat = s.dt.toNat - 1 ∧ t.st.toNat = s.st.toNat - 1 ∧ SameBut [.dt, .st, .env] s t ∧
      t.env = { s.env with events := rest, time := s.env.time + 1 }

/-- The number of ticks a free cycle lets pass, counted in one go, is that many single ticks (R127, R238; log entry 6). -/
def Obligations.TicksInOneGo : Prop :=
  ∀ (n : Nat) (s : State), State.tick^[n] s = s.elapse n

/-- The machine right after `reset_all`: the values R36 and R290 give (the spec's decision D16 for `I`, `DT`, `ST`, `FB`, `KW`).
`STK`, `KPREV` and `MEM` are left open there and are not stated. -/
def Obligations.ResetState : Prop :=
  (∀ r, State.reset.reg r = 0) ∧ State.reset.index = 0 ∧ State.reset.pc = 0x200 ∧ State.reset.sp = 0 ∧
    (∀ x y, State.reset.pixel x y = false) ∧ State.reset.dt = 0 ∧ State.reset.st = 0 ∧ State.reset.kw = false ∧
    State.reset.fault = none

/-- `reset_core`, in any condition of the core: zero registers, `I` = 0, `PC` = 0x200, an empty stack, no key wait, no fault; memory,
display, timers and the stack's entries unchanged (R36, R291, R292; D16, D28). -/
def Obligations.ResetCoreRestarts : Prop :=
  ∀ (s : State) (k : Word) (rest : List Event), s.env.events = .resetCore k :: rest →
    ∃ t, step s = .next t ∧ (∀ r, t.reg r = 0) ∧ t.index = 0 ∧ t.pc = 0x200 ∧ t.sp = 0 ∧ t.stk = s.stk ∧ t.kw = false ∧
      t.fault = none ∧ SameBut [.regs, .index, .pc, .stack, .keyWait, .fault, .env] s t ∧
      t.env.fresh = true ∧ t.env.events = rest

/-- `reset_all`, in any condition of the core: as `reset_core`, and the timers are 0, every pixel is dark, and memory is the image
`MEM_INIT` (R36, R290, R292; D16, D17, D28; log entry 9). -/
def Obligations.ResetAllConstructs : Prop :=
  ∀ (s : State) (m : List Byte) (c : Vector Addr Config.stackDepth) (k : Word) (rest : List Event), m.length = 4096 →
    s.env.events = .resetAll m c k :: rest →
    ∃ t, step s = .next t ∧ (∀ r, t.reg r = 0) ∧ t.index = 0 ∧ t.pc = 0x200 ∧ t.sp = 0 ∧ t.kw = false ∧ t.fault = none ∧
      t.dt = 0 ∧ t.st = 0 ∧ (∀ x y, t.pixel x y = false) ∧ (∀ a, a < 4096 → t.byteAt a = m.getD a 0) ∧
      t.env.fresh = true ∧ t.env.events = rest

/-- A program load before the first cycle: the bytes are copied from 0x200 on and every other byte of memory is kept; a program
longer than 3584 bytes is answered RomTooLarge with nothing changed (R76, R259; log entry 10 for the answer's form). -/
def Obligations.ProgramLoadCopiesOrRefuses : Prop :=
  ∀ (s : State) (bytes : List Byte) (rest : List Event), s.env.fresh = true → s.env.events = .loadProgram bytes :: rest →
    (bytes.length ≤ 3584 → ∃ t, step s = .next t ∧ SameBut [.mem, .env] s t ∧ t.env.loadResult = some .loaded ∧
      (∀ j, j < bytes.length → t.byteAt (0x200 + j) = bytes.getD j 0) ∧
      (∀ a, ¬(0x200 ≤ a ∧ a < 0x200 + bytes.length) → t.byteAt a = s.byteAt a)) ∧
    (3584 < bytes.length → ∃ t, step s = .next t ∧ SameBut [.env] s t ∧ t.env.loadResult = some .romTooLarge)

/-- The font load before the first cycle: `MEM[j] <- FONT[j]` for `j` = 0 to 79, every other byte kept (R77, D18). -/
def Obligations.FontLoadCopies : Prop :=
  ∀ (s : State) (font : Vector Byte Config.fontSize) (rest : List Event), s.env.fresh = true →
    s.env.events = .loadFont font :: rest →
    ∃ t, step s = .next t ∧ SameBut [.mem, .env] s t ∧ (∀ j : Fin 80, t.byteAt j.val = font[j.val]) ∧
      ∀ a, 80 ≤ a → t.byteAt a = s.byteAt a

/-- A load while the core is running has no meaning: it is refused (R78, D29; log entry 10). -/
def Obligations.LoadWhileRunningRefused : Prop :=
  ∀ (s : State) (rest : List Event), s.env.fresh = false →
    (∀ font, s.env.events = .loadFont font :: rest → step s = .refused .loadWhileRunning) ∧
    (∀ bytes, s.env.events = .loadProgram bytes :: rest → step s = .refused .loadWhileRunning)

/-! ### Memory -/

/-- R66: `MemRead`, one byte or the two of a fetch, big-endian, and its bounds. -/
def Obligations.MemReadRule : Prop :=
  ∀ (m : Memory) (a : Nat),
    (a ≤ 4095 → memRead m a = .ok (m.read a)) ∧
    (4096 ≤ a → memRead m a = .error (.outOfBounds a)) ∧
    (a + 1 ≤ 4095 → ∃ w, memRead2 m a = .ok w ∧ w.toNat = 256 * (m.read a).toNat + (m.read (a + 1)).toNat) ∧
    (4095 < a + 1 → memRead2 m a = .error (.outOfBounds (max a 4096)))

/-- R67: `MemWrite` writes that one byte and nothing else, or faults. -/
def Obligations.MemWriteRule : Prop :=
  ∀ (m : Memory) (a : Nat) (v : Byte),
    (a ≤ 4095 → ∃ m', memWrite m a v = .ok m' ∧ m'.read a = v ∧ ∀ b, b ≠ a → m'.read b = m.read b) ∧
    (4096 ≤ a → memWrite m a v = .error (.outOfBounds a))

/-! ### Control transfer -/

/-- R141, R143: 1NNN and BNNN set `PC`; the sum of BNNN is not reduced to 12 bits; nothing else changes. -/
def Obligations.JumpResults : Prop :=
  ∀ (nnn : Addr) (s : State),
    (∃ t, exec (.jp nnn) s = .next t ∧ SameBut [.pc] s t ∧ t.pc = nnn) ∧
    (∃ t, exec (.jpV0 nnn) s = .next t ∧ SameBut [.pc] s t ∧ t.pc.toNat = (nnn.toNat + (s.reg 0).toNat) % 65536)

/-- 2NNN with a free entry: the address after the call is pushed and `PC` is set; every other stack entry and everything else is
kept (R142; the spec's decision D1 for the offset 2, D2 for the depth 16). -/
def Obligations.CallResult : Prop :=
  ∀ (nnn : Addr) (s : State), s.sp.val < 16 →
    ∃ t, exec (.call nnn) s = .next t ∧ SameBut [.stack, .pc] s t ∧ t.pc = nnn ∧ t.sp.val = s.sp.val + 1 ∧
      ∀ j : Fin 16, t.stk[j.val] = if j.val = s.sp.val then s.pc + 2 else s.stk[j.val]

/-- 2NNN with `SP` = 16 latches StackOverflow and changes nothing else (R142, R253, R255; log entry 1). -/
def Obligations.CallOverflowFaults : Prop :=
  ∀ (nnn : Addr) (s : State), s.sp.val = 16 →
    ∃ t, exec (.call nnn) s = .next t ∧ Latches s t 3 (some (encode (.call nnn))) none

/-- 00EE with an entry in use: `PC` is the popped value, nothing added, `SP` goes down by one, the entries keep their values; with
`SP` = 0 it latches StackUnderflow and changes nothing else (R140, R254, R255; log entry 1). -/
def Obligations.ReturnResult : Prop :=
  ∀ s : State,
    (∀ n : Fin 16, s.sp.val = n.val + 1 →
      ∃ t, exec .ret s = .next t ∧ SameBut [.stack, .pc] s t ∧ t.pc = s.stk[n.val] ∧ t.sp.val = n.val ∧ t.stk = s.stk) ∧
    (s.sp.val = 0 → ∃ t, exec .ret s = .next t ∧ Latches s t 4 (some 0x00EE#16) none)

/-- Call and return pair: a return that finds the pointer and the entry as the call left them continues after the call, with the
pointer as before it (R148, D1). -/
def Obligations.CallThenReturnContinues : Prop :=
  ∀ (nnn : Addr) (s : State) (h : s.sp.val < Config.stackDepth),
    ∃ t, exec (.call nnn) s = .next t ∧
      ∀ t' : State, t'.sp = t.sp → t'.stk[s.sp.val] = t.stk[s.sp.val] →
        ∃ u, exec .ret t' = .next u ∧ u.pc = s.pc + 2 ∧ u.sp = s.sp

/-- R144 to R147: the four register skips; only `PC` changes. -/
def Obligations.RegisterSkipResults : Prop :=
  ∀ (x y : Reg) (nn : Byte) (s : State),
    (∃ t, exec (.seByte x nn) s = .next t ∧ SameBut [.pc] s t ∧ t.pc = if s.reg x = nn then s.pc + 4 else s.pc + 2) ∧
    (∃ t, exec (.sneByte x nn) s = .next t ∧ SameBut [.pc] s t ∧ t.pc = if s.reg x = nn then s.pc + 2 else s.pc + 4) ∧
    (∃ t, exec (.seReg x y) s = .next t ∧ SameBut [.pc] s t ∧ t.pc = if s.reg x = s.reg y then s.pc + 4 else s.pc + 2) ∧
    (∃ t, exec (.sneReg x y) s = .next t ∧ SameBut [.pc] s t ∧ t.pc = if s.reg x = s.reg y then s.pc + 2 else s.pc + 4)

/-- R231 to R233: EX9E skips when the sample's bit of the key `V[X]` is 1, EXA1 when it is not; a code above 15 is not pressed; only
`PC` changes. -/
def Obligations.KeySkipResults : Prop :=
  ∀ (x : Reg) (s : State),
    (∃ t, exec (.skp x) s = .next t ∧ SameBut [.pc] s t ∧
      t.pc = if (s.reg x).toNat ≤ 15 ∧ s.env.keys.getLsbD (s.reg x).toNat = true then s.pc + 4 else s.pc + 2) ∧
    (∃ t, exec (.sknp x) s = .next t ∧ SameBut [.pc] s t ∧
      t.pc = if (s.reg x).toNat ≤ 15 ∧ s.env.keys.getLsbD (s.reg x).toNat = true then s.pc + 2 else s.pc + 4)

/-! ### Registers and arithmetic -/

/-- R160 to R162: load, add (no flag) and copy; `V[X]` and `PC` change and nothing else, `VF` only as an ordinary `V[X]`. -/
def Obligations.LoadAddCopyResults : Prop :=
  ∀ (x y : Reg) (nn : Byte) (s : State),
    (∃ t, exec (.ldByte x nn) s = .next t ∧ SameBut [.regs, .pc] s t ∧ t.pc = s.pc + 2 ∧
      ∀ r, t.reg r = if r = x then nn else s.reg r) ∧
    (∃ t, exec (.addByte x nn) s = .next t ∧ SameBut [.regs, .pc] s t ∧ t.pc = s.pc + 2 ∧
      ∀ r, (t.reg r).toNat = if r = x then ((s.reg x).toNat + nn.toNat) % 256 else (s.reg r).toNat) ∧
    (∃ t, exec (.ldReg x y) s = .next t ∧ SameBut [.regs, .pc] s t ∧ t.pc = s.pc + 2 ∧
      ∀ r, t.reg r = if r = x then s.reg y else s.reg r)

/-- R163 to R165: OR, AND, exclusive OR, bit by bit; `VF` keeps its value unless X is 15. -/
def Obligations.BitwiseResults : Prop :=
  ∀ (x y : Reg) (s : State),
    (∃ t, exec (.orReg x y) s = .next t ∧ SameBut [.regs, .pc] s t ∧ t.pc = s.pc + 2 ∧ (∀ r, r ≠ x → t.reg r = s.reg r) ∧
      ∀ j < 8, (t.reg x).getLsbD j = ((s.reg x).getLsbD j || (s.reg y).getLsbD j)) ∧
    (∃ t, exec (.andReg x y) s = .next t ∧ SameBut [.regs, .pc] s t ∧ t.pc = s.pc + 2 ∧ (∀ r, r ≠ x → t.reg r = s.reg r) ∧
      ∀ j < 8, (t.reg x).getLsbD j = ((s.reg x).getLsbD j && (s.reg y).getLsbD j)) ∧
    (∃ t, exec (.xorReg x y) s = .next t ∧ SameBut [.regs, .pc] s t ∧ t.pc = s.pc + 2 ∧ (∀ r, r ≠ x → t.reg r = s.reg r) ∧
      ∀ j < 8, (t.reg x).getLsbD j = ((s.reg x).getLsbD j ^^ (s.reg y).getLsbD j))

/-- 8XY4. The sum of the old values modulo 256 in `V[X]`, then the carry in `VF` (R166); what a form that names `V[15]` as X or Y leaves (with
X = 15 the carry) rests on the statement order, the spec's decision D8 (R124; log entry 21). -/
def Obligations.AddRegResult : Prop :=
  ∀ (x y : Reg) (s : State),
    ∃ t, exec (.addReg x y) s = .next t ∧ SameBut [.regs, .pc] s t ∧ t.pc = s.pc + 2 ∧
      ∀ r, (t.reg r).toNat =
        if r = 15 then (if (s.reg x).toNat + (s.reg y).toNat > 255 then 1 else 0)
        else if r = x then ((s.reg x).toNat + (s.reg y).toNat) % 256
        else (s.reg r).toNat

/-- 8XY5 and 8XY7. The difference of the old values modulo 256 in `V[X]`, then NOT borrow in `VF` (R167, R169); what a form that
names `V[15]` as X or Y leaves (with X = 15 the flag) rests on the statement order, the spec's decision D8 (R124; log entry 21). -/
def Obligations.SubtractResults : Prop :=
  ∀ (x y : Reg) (s : State),
    (∃ t, exec (.subReg x y) s = .next t ∧ SameBut [.regs, .pc] s t ∧ t.pc = s.pc + 2 ∧
      ∀ r, ((t.reg r).toNat : Int) =
        if r = 15 then (if (s.reg x).toNat ≥ (s.reg y).toNat then 1 else 0)
        else if r = x then (((s.reg x).toNat : Int) - (s.reg y).toNat) % 256
        else (s.reg r).toNat) ∧
    (∃ t, exec (.subnReg x y) s = .next t ∧ SameBut [.regs, .pc] s t ∧ t.pc = s.pc + 2 ∧
      ∀ r, ((t.reg r).toNat : Int) =
        if r = 15 then (if (s.reg y).toNat ≥ (s.reg x).toNat then 1 else 0)
        else if r = x then (((s.reg y).toNat : Int) - (s.reg x).toNat) % 256
        else (s.reg r).toNat)

/-- 8XY6 and 8XYE, for every Y. `VF` gets the bit shifted out, then `V[X]` is shifted (R168, R170); that with X = 15 the shift acts on
the flag just written, so that `VF` ends as 0 (8XY6), as 0 or 2 (8XYE), rests on the statement order, the spec's decision D8 (R124; log
entry 21). -/
def Obligations.ShiftResults : Prop :=
  ∀ (x y : Reg) (s : State),
    (∃ t, exec (.shr x y) s = .next t ∧ SameBut [.regs, .pc] s t ∧ t.pc = s.pc + 2 ∧
      ∀ r, (t.reg r).toNat =
        if r = x then (if x = 15 then 0 else (s.reg x).toNat / 2)
        else if r = 15 then (s.reg x).toNat % 2
        else (s.reg r).toNat) ∧
    (∃ t, exec (.shl x y) s = .next t ∧ SameBut [.regs, .pc] s t ∧ t.pc = s.pc + 2 ∧
      ∀ r, (t.reg r).toNat =
        if r = x then (if x = 15 then 2 * ((s.reg x).toNat / 128) else 2 * (s.reg x).toNat % 256)
        else if r = 15 then (s.reg x).toNat / 128
        else (s.reg r).toNat)

/-- CXNN: `V[X]` gets the cycle's random byte, whatever it is, with every bit that is 0 in `NN` cleared; nothing else but `PC`
changes (R171, D15; log entry 5). -/
def Obligations.RandomResult : Prop :=
  ∀ (x : Reg) (nn : Byte) (s : State),
    ∃ t, exec (.rnd x nn) s = .next t ∧ SameBut [.regs, .pc] s t ∧ t.pc = s.pc + 2 ∧ (∀ r, r ≠ x → t.reg r = s.reg r) ∧
      ∀ j < 8, (t.reg x).getLsbD j = (s.env.rnd.getLsbD j && nn.getLsbD j)

/-! ### Index register and memory -/

/-- R190, R191: ANNN loads `I`; FX1E adds `V[X]` modulo 65536, with no flag and no check; nothing else but `PC` changes. -/
def Obligations.IndexResults : Prop :=
  ∀ (nnn : Addr) (x : Reg) (s : State),
    (∃ t, exec (.ldI nnn) s = .next t ∧ SameBut [.index, .pc] s t ∧ t.pc = s.pc + 2 ∧ t.index = nnn) ∧
    (∃ t, exec (.addI x) s = .next t ∧ SameBut [.index, .pc] s t ∧ t.pc = s.pc + 2 ∧
      t.index.toNat = (s.index.toNat + (s.reg x).toNat) % 65536)

/-- FX29: `I` is five times the whole byte `V[X]`; nothing else but `PC` changes (R192; the spec's decision D21 not to mask the
value). -/
def Obligations.FontAddressResult : Prop :=
  ∀ (x : Reg) (s : State),
    ∃ t, exec (.ldFont x) s = .next t ∧ SameBut [.index, .pc] s t ∧ t.pc = s.pc + 2 ∧ t.index.toNat = 5 * (s.reg x).toNat

/-- FX33 inside memory: the bytes at `I`, `I+1`, `I+2` are the decimal digits of `V[X]`, hundreds first, and every other byte,
register and `I` are kept (R193, R68). -/
def Obligations.BcdResult : Prop :=
  ∀ (x : Reg) (s : State), RunFits s 3 →
    ∃ t, exec (.bcd x) s = .next t ∧ SameBut [.mem, .pc] s t ∧ t.pc = s.pc + 2 ∧
      100 * (t.byteAt s.base).toNat + 10 * (t.byteAt (s.base + 1)).toNat + (t.byteAt (s.base + 2)).toNat = (s.reg x).toNat ∧
      (t.byteAt (s.base + 1)).toNat ≤ 9 ∧ (t.byteAt (s.base + 2)).toNat ≤ 9 ∧
      ∀ a, ¬(s.base ≤ a ∧ a < s.base + 3) → t.byteAt a = s.byteAt a

/-- FX55 inside memory: `V[r]` at `I + r` for `r` = 0 to X, and every other byte, register and `I` are kept (R194, R68). -/
def Obligations.StoreRegsResult : Prop :=
  ∀ (x : Reg) (s : State), RunFits s (x.val + 1) →
    ∃ t, exec (.storeRegs x) s = .next t ∧ SameBut [.mem, .pc] s t ∧ t.pc = s.pc + 2 ∧
      (∀ r : Reg, r.val ≤ x.val → t.byteAt (s.base + r.val) = s.reg r) ∧
      ∀ a, ¬(s.base ≤ a ∧ a < s.base + (x.val + 1)) → t.byteAt a = s.byteAt a

/-- FX65 inside memory: `V[r]` from `I + r` for `r` = 0 to X, then `I` goes up by X + 1; registers above X and memory are kept (R195,
R68). -/
def Obligations.LoadRegsResult : Prop :=
  ∀ (x : Reg) (s : State), RunFits s (x.val + 1) →
    ∃ t, exec (.loadRegs x) s = .next t ∧ SameBut [.regs, .index, .pc] s t ∧ t.pc = s.pc + 2 ∧
      (∀ r : Reg, t.reg r = if r.val ≤ x.val then s.byteAt (s.base + r.val) else s.reg r) ∧
      t.index.toNat = s.base + x.val + 1

/-- FX33, FX55, FX65 and DXYN whose run passes 4095 latch OutOfBounds with the lowest offending address, and nothing else changes: no
byte, no register, no pixel (R68, R250, R251, R255, R257; D6, D7; log entry 1). -/
def Obligations.DataOutOfBoundsFaults : Prop :=
  ∀ (x y : Reg) (n : Nat) (s : State),
    (4096 < s.base + 3 → ∃ t, exec (.bcd x) s = .next t ∧
      Latches s t 1 (some (encode (.bcd x))) (some (BitVec.ofNat 16 (max s.base 4096)))) ∧
    (4096 < s.base + (x.val + 1) → ∃ t, exec (.storeRegs x) s = .next t ∧
      Latches s t 1 (some (encode (.storeRegs x))) (some (BitVec.ofNat 16 (max s.base 4096)))) ∧
    (4096 < s.base + (x.val + 1) → ∃ t, exec (.loadRegs x) s = .next t ∧
      Latches s t 1 (some (encode (.loadRegs x))) (some (BitVec.ofNat 16 (max s.base 4096)))) ∧
    (0 < n → 4096 < s.base + n → ∃ t, exec (.drw x y n) s = .next t ∧
      Latches s t 1 (some (encode (.drw x y n))) (some (BitVec.ofNat 16 (max s.base 4096))))

/-- FX55 then FX65 with the same X and `I`, the stored bytes still in place: the registers read back what they were, and `I` ends
X + 1 higher (R194, R195, R302). -/
def Obligations.StoreThenLoadRoundTrip : Prop :=
  ∀ (x : Reg) (s : State), RunFits s (x.val + 1) →
    ∃ t, exec (.storeRegs x) s = .next t ∧
      ∀ t' : State, t'.index = t.index → (∀ a, s.base ≤ a → a ≤ s.base + x.val → t'.byteAt a = t.byteAt a) →
        ∃ u, exec (.loadRegs x) t' = .next u ∧ (∀ r : Reg, r.val ≤ x.val → u.reg r = s.reg r) ∧
          u.index.toNat = s.base + x.val + 1

/-- A store into the instruction stream is seen by the very next fetch: FX55 that stores to the two bytes after itself leaves a state
whose fetch gives the word of `V[0]` and `V[1]` (R74). -/
def Obligations.StoreSeenByNextFetch : Prop :=
  ∀ (x : Reg) (s : State), 1 ≤ x.val → RunFits s (x.val + 1) → s.base = s.pc.toNat + 2 →
    ∃ t, exec (.storeRegs x) s = .next t ∧ t.fetch = .ok (wordOfBytes (s.reg 0) (s.reg 1))

/-! ### Display -/

/-- R212: 00E0 turns every pixel off; `VF` and everything else but `PC` is kept. -/
def Obligations.ClearResult : Prop :=
  ∀ s : State, ∃ t, exec .cls s = .next t ∧ SameBut [.fb, .pc] s t ∧ t.pc = s.pc + 2 ∧ ∀ x y, t.pixel x y = false

/-- DXYN whose run stays inside memory (always so for N = 0): every pixel is XORed with the sprite's bit for it, clipped at the edges;
`VF` ends as 1 exactly when some lit pixel met a 1 bit, else as 0; every other register, `I`, memory and all else are kept (R211, R213,
R214; the spec's decisions D9 to D11; log entry 16). -/
def Obligations.DrawResult : Prop :=
  ∀ (x y : Reg) (n : Nat) (s : State), RunFits s n →
    ∃ t, exec (.drw x y n) s = .next t ∧ SameBut [.regs, .fb, .pc] s t ∧ t.pc = s.pc + 2 ∧
      (∀ px py, t.pixel px py = (s.pixel px py ^^ spriteAt s x y n px py)) ∧
      (∀ r, r ≠ 15 → t.reg r = s.reg r) ∧
      ((∃ px py, s.pixel px py = true ∧ spriteAt s x y n px py = true) → t.reg 15 = 1) ∧
      ((∀ px py, s.pixel px py = true → spriteAt s x y n px py = false) → t.reg 15 = 0)

/-- The same sprite drawn twice at the same place, its coordinates not in `VF`: the grid is as before, and if every pixel was dark the
second draw reports a collision exactly when the sprite has a 1 bit inside the grid (R213; log entry 17 on why the grid is taken dark). -/
def Obligations.DrawTwiceRestores : Prop :=
  ∀ (x y : Reg) (n : Nat) (s : State), x ≠ 15 → y ≠ 15 → RunFits s n →
    ∃ t u, exec (.drw x y n) s = .next t ∧ exec (.drw x y n) t = .next u ∧
      (∀ px py, u.pixel px py = s.pixel px py) ∧
      ((∀ px py, s.pixel px py = false) → (u.reg 15 = 1 ↔ ∃ px py, spriteAt s x y n px py = true))

/-! ### Keypad and timers -/

/-- FX0A. First poll: the wait begins and the sample is remembered. A later poll with no key newly down: the sample is remembered. A
later poll with `j` the lowest key newly down: `V[X]` gets `j`, the wait ends, `PC` goes on. Nothing else changes (R234; the spec's
decision D13). -/
def Obligations.WaitKeyResult : Prop :=
  ∀ (x : Reg) (s : State),
    (s.kw = false → ∃ t, exec (.waitKey x) s = .next t ∧ SameBut [.keyWait] s t ∧ t.kw = true ∧ t.kprev = s.env.keys) ∧
    (s.kw = true → (∀ j < 16, s.env.keys.getLsbD j = true → s.kprev.getLsbD j = true) →
      ∃ t, exec (.waitKey x) s = .next t ∧ SameBut [.keyWait] s t ∧ t.kw = true ∧ t.kprev = s.env.keys) ∧
    (∀ j < 16, s.kw = true → s.env.keys.getLsbD j = true → s.kprev.getLsbD j = false →
      (∀ k < j, s.env.keys.getLsbD k = true → s.kprev.getLsbD k = true) →
      ∃ t, exec (.waitKey x) s = .next t ∧ SameBut [.regs, .keyWait, .pc] s t ∧ t.pc = s.pc + 2 ∧ t.kw = false ∧
        (t.reg x).toNat = j ∧ ∀ r, r ≠ x → t.reg r = s.reg r)

/-- R235 to R237: FX07 reads `DT`, FX15 writes it, FX18 writes `ST`; nothing else but `PC` changes. -/
def Obligations.TimerInstructionResults : Prop :=
  ∀ (x : Reg) (s : State),
    (∃ t, exec (.getDelay x) s = .next t ∧ SameBut [.regs, .pc] s t ∧ t.pc = s.pc + 2 ∧
      ∀ r, t.reg r = if r = x then s.dt else s.reg r) ∧
    (∃ t, exec (.setDelay x) s = .next t ∧ SameBut [.dt, .pc] s t ∧ t.pc = s.pc + 2 ∧ t.dt = s.reg x) ∧
    (∃ t, exec (.setSound x) s = .next t ∧ SameBut [.st, .pc] s t ∧ t.pc = s.pc + 2 ∧ t.st = s.reg x)

/-! ### The whole machine -/

/-- Every instruction, in every state, goes to a next state: there is no halt, no undefined instruction and no stuck state. A fault at
execute comes only from 2NNN, 00EE, DXYN, FX33, FX55, FX65 (R12, R129, R250). -/
def Obligations.ExecAlwaysAnswersNext : Prop :=
  ∀ (i : Instr) (s : State), ∃ t, exec i s = .next t ∧ (t.fault ≠ s.fault → Part.fault ∈ writes i)

/-- Every instruction changes only the parts R37 says it writes, and only the registers it names (R37, R125). -/
def Obligations.ExecWritesOnlyNamedState : Prop :=
  ∀ (i : Instr) (s t : State), exec i s = .next t →
    SameBut (writes i) s t ∧ ∀ r, writesReg i r = false → t.reg r = s.reg r

/-- Faults are precise: an instruction that latches a fault leaves everything else as it was (R132, R257; D6). -/
def Obligations.ExecFaultsArePrecise : Prop :=
  ∀ (i : Instr) (s t : State), exec i s = .next t → t.fault ≠ s.fault → SameBut [.fault] s t

/-- Only EX9E, EXA1 and FX0A use the key sample: for every other instruction, two states that differ in the sample alone go to states
that differ in the sample alone (R230). -/
def Obligations.KeysReadOnlyByKeypadInstructions : Prop :=
  ∀ (i : Instr) (s t : State) (k : Word), (∀ x, i ≠ .skp x ∧ i ≠ .sknp x ∧ i ≠ .waitKey x) → exec i s = .next t →
    exec i (s.setEnv { s.env with keys := k }) = .next (t.setEnv { t.env with keys := k })

/-- No instruction reads `ST`: two states that differ in `ST` alone go to states that differ in `ST` alone, and for FX18 not even
there (R31). -/
def Obligations.SoundTimerNeverRead : Prop :=
  ∀ (i : Instr) (s t : State) (b : Byte), exec i s = .next t →
    ((∀ x, i ≠ .setSound x) → exec i (s.setSt b) = .next (t.setSt b)) ∧
    ((∃ x, i = .setSound x) → exec i (s.setSt b) = .next t)

/-- A latched fault stays, with all of the core, until a reset: any other step, a free cycle too, leaves every register, `PC`, the stack,
every byte of memory, every pixel and the key wait as they were; only the timers and the model's own event side move (R34, R128, R264;
D6). The premise is the invariant of StoppedCoreStaysNotFresh: the core has run since the last reset, so no load is allowed (log entry
10). -/
def Obligations.FaultStaysUntilReset : Prop :=
  ∀ (s t : State) (r : FaultRecord), StoppedCoreIsNotFresh s → s.fault = some r → step s = .next t →
    (∀ k rest, s.env.events ≠ .resetCore k :: rest) → (∀ m c k rest, s.env.events ≠ .resetAll m c k :: rest) →
    t.fault = some r ∧ SameBut [.dt, .st, .env] s t

/-- INVARIANT. Every step keeps memory in its canonical form (log entry 7; R60, R67). -/
def Obligations.MemoryStaysCanonical : Prop :=
  ∀ s t : State, MemoryCanonical s → step s = .next t → MemoryCanonical t

/-- INVARIANT. Every step keeps `PC` at most 4350 and the return addresses in use at most 4096 (R27, R140). -/
def Obligations.PcAndStackStayInRange : Prop :=
  ∀ s t : State, PcAndStackInRange s → step s = .next t → PcAndStackInRange t

/-- INVARIANT. Every step keeps: while `KW` is 1 the core is not stopped and the word at `PC` is an FX0A, so the next cycle is a poll
(R33, R234). -/
def Obligations.KeyWaitStaysAtFx0A : Prop :=
  ∀ s t : State, KeyWaitAtFx0A s → step s = .next t → KeyWaitAtFx0A t

/-- INVARIANT. Every step keeps: a latched record has a cause 1 to 4 with the fields of that cause, and `PC` is still the address it
records (R250, R251, R255, R257). -/
def Obligations.FaultRecordStaysSound : Prop :=
  ∀ s t : State, FaultRecordSound s → step s = .next t → FaultRecordSound t

/-- The machine right after reset meets the five invariants. -/
def Obligations.ResetMeetsInvariants : Prop :=
  MemoryCanonical State.reset ∧ PcAndStackInRange State.reset ∧ KeyWaitAtFx0A State.reset ∧ FaultRecordSound State.reset ∧
    StoppedCoreIsNotFresh State.reset

/-- INVARIANT. Every step keeps: a core with a latched fault has taken a cycle since the last reset, so that it takes no load (R78, R256,
R292, R293; log entry 10 for the field `fresh`). -/
def Obligations.StoppedCoreStaysNotFresh : Prop :=
  ∀ s t : State, StoppedCoreIsNotFresh s → step s = .next t → StoppedCoreIsNotFresh t
end

