-- ==== Sys2Proof/Laws/Constants.lean ====
section
/-! SUPPORT. The fixed parameters of R4 as numbers, for `simp` and `omega`. -/

namespace Sys2Proof.Config

@[simp] theorem memSize_eq : memSize = 4096 := rfl
@[simp] theorem pcReset_eq : pcReset = 512 := rfl
@[simp] theorem romMax_eq : romMax = 3584 := rfl
@[simp] theorem glyphBytes_eq : glyphBytes = 5 := rfl
theorem stackDepth_eq : stackDepth = 16 := rfl
theorem fontSize_eq : fontSize = 80 := rfl
theorem fbWidth_eq : fbWidth = 64 := rfl
theorem fbHeight_eq : fbHeight = 32 := rfl

end Sys2Proof.Config
end

