-- ==== Sys2Proof/Laws/Decode.lean ====
section
/-! SUPPORT. The masks of the opcode map as conditions on the fields of a word, and the fields of an encoded word (R92, R95, R104). -/

namespace Sys2Proof

/-! ### The masks of R95 -/

theorem toNat_and_F000 (w : Word) : (w &&& 0xF000#16).toNat = 4096 * (w.toNat / 4096) := by
  have hw := w.isLt
  rw [BitVec.toNat_and]
  refine Nat.eq_of_testBit_eq fun i => ?_
  rw [Nat.testBit_and]
  by_cases hi : i < 16
  · interval_cases i <;> simp [Nat.testBit_eq_decide_div_mod_eq] <;> omega
  · have h1 : 65536 ≤ 2 ^ i := by simpa using Nat.pow_le_pow_right (n := 2) (by decide) (Nat.le_of_not_lt hi)
    rw [Nat.testBit_lt_two_pow (x := w.toNat) (i := i) (by omega), Bool.false_and,
      Nat.testBit_lt_two_pow (i := i) (by omega)]

theorem toNat_and_F00F (w : Word) : (w &&& 0xF00F#16).toNat = 4096 * (w.toNat / 4096) + w.toNat % 16 := by
  have hw := w.isLt
  rw [BitVec.toNat_and]
  refine Nat.eq_of_testBit_eq fun i => ?_
  rw [Nat.testBit_and]
  by_cases hi : i < 16
  · interval_cases i <;> simp [Nat.testBit_eq_decide_div_mod_eq] <;> omega
  · have h1 : 65536 ≤ 2 ^ i := by simpa using Nat.pow_le_pow_right (n := 2) (by decide) (Nat.le_of_not_lt hi)
    rw [Nat.testBit_lt_two_pow (x := w.toNat) (i := i) (by omega), Bool.false_and,
      Nat.testBit_lt_two_pow (i := i) (by omega)]

theorem toNat_and_F0FF (w : Word) : (w &&& 0xF0FF#16).toNat = 4096 * (w.toNat / 4096) + w.toNat % 256 := by
  have hw := w.isLt
  rw [BitVec.toNat_and]
  refine Nat.eq_of_testBit_eq fun i => ?_
  rw [Nat.testBit_and]
  by_cases hi : i < 16
  · interval_cases i <;> simp [Nat.testBit_eq_decide_div_mod_eq] <;> omega
  · have h1 : 65536 ≤ 2 ^ i := by simpa using Nat.pow_le_pow_right (n := 2) (by decide) (Nat.le_of_not_lt hi)
    rw [Nat.testBit_lt_two_pow (x := w.toNat) (i := i) (by omega), Bool.false_and,
      Nat.testBit_lt_two_pow (i := i) (by omega)]

/-- A row with mask 0xF000 matches exactly the words of its family (R95). -/
theorem isMatch_F000 (s : String) (p w : Word) :
    (Row.mk s 0xF000 p).isMatch w = true ↔ 4096 * (w.toNat / 4096) = p.toNat := by
  rw [← toNat_and_F000, Row.isMatch, beq_iff_eq, ← BitVec.toNat_inj]
  exact Iff.rfl

/-- A row with mask 0xF00F fixes the family and the low nibble (R95, R96). -/
theorem isMatch_F00F (s : String) (p w : Word) :
    (Row.mk s 0xF00F p).isMatch w = true ↔ 4096 * (w.toNat / 4096) + w.toNat % 16 = p.toNat := by
  rw [← toNat_and_F00F, Row.isMatch, beq_iff_eq, ← BitVec.toNat_inj]
  exact Iff.rfl

/-- A row with mask 0xF0FF fixes the family and the low byte (R95, R96). -/
theorem isMatch_F0FF (s : String) (p w : Word) :
    (Row.mk s 0xF0FF p).isMatch w = true ↔ 4096 * (w.toNat / 4096) + w.toNat % 256 = p.toNat := by
  rw [← toNat_and_F0FF, Row.isMatch, beq_iff_eq, ← BitVec.toNat_inj]
  exact Iff.rfl

/-- A row with mask 0xFFFF fixes the whole word (R95, R96). -/
theorem isMatch_FFFF (s : String) (p w : Word) : (Row.mk s 0xFFFF p).isMatch w = true ↔ w.toNat = p.toNat := by
  rw [Row.isMatch, beq_iff_eq, ← BitVec.toNat_inj, show (0xFFFF : Word) = BitVec.allOnes 16 from rfl, BitVec.and_allOnes]

/-! ### The formats as numbers -/

theorem wordNNN_toNat (base : Nat) (nnn : Addr) (h : base % 4096 = 0) (h' : base < 65536) :
    (wordNNN base nnn).toNat = base + nnn.toNat % 0x1000 := by
  rw [wordNNN, BitVec.toNat_ofNat, Nat.mod_eq_of_lt (by omega)]

theorem wordXNN_toNat (base : Nat) (x : Reg) (nn : Byte) (h : base % 4096 = 0) (h' : base < 65536) :
    (wordXNN base x nn).toNat = base + 0x100 * x.val + nn.toNat := by
  have := x.isLt
  have := nn.isLt
  rw [wordXNN, BitVec.toNat_ofNat, Nat.mod_eq_of_lt (by omega)]

theorem wordXY_toNat (base : Nat) (x y : Reg) (h : base % 4096 < 16) (h' : base < 65536) :
    (wordXY base x y).toNat = base + 0x100 * x.val + 0x10 * y.val := by
  have := x.isLt
  have := y.isLt
  rw [wordXY, BitVec.toNat_ofNat, Nat.mod_eq_of_lt (by omega)]

theorem wordX_toNat (base : Nat) (x : Reg) (h : base % 4096 < 256) (h' : base < 65536) :
    (wordX base x).toNat = base + 0x100 * x.val := by
  have := x.isLt
  rw [wordX, BitVec.toNat_ofNat, Nat.mod_eq_of_lt (by omega)]

/-! ### The fields of a word as numbers -/

theorem fieldF_eq (w : Word) : fieldF w = w.toNat / 4096 := by
  have := w.isLt
  simp only [fieldF, slice]
  omega

theorem fieldX_val (w : Word) : (fieldX w).val = w.toNat / 256 % 16 := by
  simp only [fieldX, slice, Fin.val_ofNat]
  omega

theorem fieldY_val (w : Word) : (fieldY w).val = w.toNat / 16 % 16 := by
  simp only [fieldY, slice, Fin.val_ofNat]
  omega

theorem fieldN_eq (w : Word) : fieldN w = w.toNat % 16 := by
  simp only [fieldN, slice]
  omega

theorem fieldNN_toNat (w : Word) : (fieldNN w).toNat = w.toNat % 256 := by
  simp only [fieldNN, slice, BitVec.toNat_ofNat]
  omega

theorem fieldNNN_toNat (w : Word) : (fieldNNN w).toNat = w.toNat % 4096 := by
  simp only [fieldNNN, slice, BitVec.toNat_ofNat]
  omega

theorem slice_low_byte (w : Word) : slice w 7 0 = w.toNat % 256 := by
  simp only [slice]
  omega

/-! ### One family at a time (R94) -/

theorem decodeWord_family0 (w : Word) (h : fieldF w = 0x0) :
    decodeWord w = if w = 0x00E0#16 then some .cls else if w = 0x00EE#16 then some .ret else none := by
  simp only [decodeWord, h]

theorem decodeWord_family1 (w : Word) (h : fieldF w = 0x1) :
    decodeWord w = some (.jp (fieldNNN w)) := by
  simp only [decodeWord, h]

theorem decodeWord_family2 (w : Word) (h : fieldF w = 0x2) :
    decodeWord w = some (.call (fieldNNN w)) := by
  simp only [decodeWord, h]

theorem decodeWord_family3 (w : Word) (h : fieldF w = 0x3) :
    decodeWord w = some (.seByte (fieldX w) (fieldNN w)) := by
  simp only [decodeWord, h]

theorem decodeWord_family4 (w : Word) (h : fieldF w = 0x4) :
    decodeWord w = some (.sneByte (fieldX w) (fieldNN w)) := by
  simp only [decodeWord, h]

theorem decodeWord_family5 (w : Word) (h : fieldF w = 0x5) :
    decodeWord w = if fieldN w = 0 then some (.seReg (fieldX w) (fieldY w)) else none := by
  simp only [decodeWord, h]

theorem decodeWord_family6 (w : Word) (h : fieldF w = 0x6) :
    decodeWord w = some (.ldByte (fieldX w) (fieldNN w)) := by
  simp only [decodeWord, h]

theorem decodeWord_family7 (w : Word) (h : fieldF w = 0x7) :
    decodeWord w = some (.addByte (fieldX w) (fieldNN w)) := by
  simp only [decodeWord, h]

theorem decodeWord_family8 (w : Word) (h : fieldF w = 0x8) :
    decodeWord w = decodeFamily8 w := by
  simp only [decodeWord, h]

theorem decodeWord_family9 (w : Word) (h : fieldF w = 0x9) :
    decodeWord w = if fieldN w = 0 then some (.sneReg (fieldX w) (fieldY w)) else none := by
  simp only [decodeWord, h]

theorem decodeWord_familyA (w : Word) (h : fieldF w = 0xA) :
    decodeWord w = some (.ldI (fieldNNN w)) := by
  simp only [decodeWord, h]

theorem decodeWord_familyB (w : Word) (h : fieldF w = 0xB) :
    decodeWord w = some (.jpV0 (fieldNNN w)) := by
  simp only [decodeWord, h]

theorem decodeWord_familyC (w : Word) (h : fieldF w = 0xC) :
    decodeWord w = some (.rnd (fieldX w) (fieldNN w)) := by
  simp only [decodeWord, h]

theorem decodeWord_familyD (w : Word) (h : fieldF w = 0xD) :
    decodeWord w = some (.drw (fieldX w) (fieldY w) (fieldN w)) := by
  simp only [decodeWord, h]

theorem decodeWord_familyE (w : Word) (h : fieldF w = 0xE) :
    decodeWord w = decodeFamilyE w := by
  simp only [decodeWord, h]

theorem decodeWord_familyF (w : Word) (h : fieldF w = 0xF) :
    decodeWord w = decodeFamilyF w := by
  simp only [decodeWord, h]

/-! ### The bytes of a word -/

/-- The two bytes of a word, put together again (R62). -/
theorem wordOfBytes_bytes (w : Word) : wordOfBytes (highByte w) (lowByte w) = w := by
  have := w.isLt
  apply BitVec.eq_of_toNat_eq
  simp only [wordOfBytes, highByte, lowByte, slice, BitVec.toNat_ofNat]
  omega

/-- A word put together from two bytes, as a number (R62). -/
theorem wordOfBytes_toNat (hi lo : Byte) : (wordOfBytes hi lo).toNat = 256 * hi.toNat + lo.toNat := by
  have := hi.isLt
  have := lo.isLt
  rw [wordOfBytes, BitVec.toNat_ofNat, Nat.mod_eq_of_lt (by omega)]

end Sys2Proof
end

