-- ==== Sys2Proof/Laws/State.lean ====
section
/-! SUPPORT. What each update of the state does to each field, one lemma per field per update, true by `rfl`; and to the views
`reg`, `byteAt`, `pixel`, `base`. -/

namespace Sys2Proof.Machine

variable (s : State)

/-! ### `setReg` -/

@[simp] theorem State.setReg_index (q : Reg) (b : Byte) : (s.setReg q b).index = s.index := rfl
@[simp] theorem State.setReg_pc (q : Reg) (b : Byte) : (s.setReg q b).pc = s.pc := rfl
@[simp] theorem State.setReg_sp (q : Reg) (b : Byte) : (s.setReg q b).sp = s.sp := rfl
@[simp] theorem State.setReg_stk (q : Reg) (b : Byte) : (s.setReg q b).stk = s.stk := rfl
@[simp] theorem State.setReg_mem (q : Reg) (b : Byte) : (s.setReg q b).mem = s.mem := rfl
@[simp] theorem State.setReg_fb (q : Reg) (b : Byte) : (s.setReg q b).fb = s.fb := rfl
@[simp] theorem State.setReg_dt (q : Reg) (b : Byte) : (s.setReg q b).dt = s.dt := rfl
@[simp] theorem State.setReg_st (q : Reg) (b : Byte) : (s.setReg q b).st = s.st := rfl
@[simp] theorem State.setReg_kw (q : Reg) (b : Byte) : (s.setReg q b).kw = s.kw := rfl
@[simp] theorem State.setReg_kprev (q : Reg) (b : Byte) : (s.setReg q b).kprev = s.kprev := rfl
@[simp] theorem State.setReg_fault (q : Reg) (b : Byte) : (s.setReg q b).fault = s.fault := rfl
@[simp] theorem State.setReg_env (q : Reg) (b : Byte) : (s.setReg q b).env = s.env := rfl
@[simp] theorem State.setReg_byteAt (q : Reg) (b : Byte) (a : Nat) : (s.setReg q b).byteAt a = s.byteAt a := rfl
@[simp] theorem State.setReg_pixel (q : Reg) (b : Byte) (x y : Nat) : (s.setReg q b).pixel x y = s.pixel x y := rfl
@[simp] theorem State.setReg_base (q : Reg) (b : Byte) : (s.setReg q b).base = s.base := rfl

/-! ### `setFlag` -/

@[simp] theorem State.setFlag_index (b : Byte) : (s.setFlag b).index = s.index := rfl
@[simp] theorem State.setFlag_pc (b : Byte) : (s.setFlag b).pc = s.pc := rfl
@[simp] theorem State.setFlag_sp (b : Byte) : (s.setFlag b).sp = s.sp := rfl
@[simp] theorem State.setFlag_stk (b : Byte) : (s.setFlag b).stk = s.stk := rfl
@[simp] theorem State.setFlag_mem (b : Byte) : (s.setFlag b).mem = s.mem := rfl
@[simp] theorem State.setFlag_fb (b : Byte) : (s.setFlag b).fb = s.fb := rfl
@[simp] theorem State.setFlag_dt (b : Byte) : (s.setFlag b).dt = s.dt := rfl
@[simp] theorem State.setFlag_st (b : Byte) : (s.setFlag b).st = s.st := rfl
@[simp] theorem State.setFlag_kw (b : Byte) : (s.setFlag b).kw = s.kw := rfl
@[simp] theorem State.setFlag_kprev (b : Byte) : (s.setFlag b).kprev = s.kprev := rfl
@[simp] theorem State.setFlag_fault (b : Byte) : (s.setFlag b).fault = s.fault := rfl
@[simp] theorem State.setFlag_env (b : Byte) : (s.setFlag b).env = s.env := rfl
@[simp] theorem State.setFlag_byteAt (b : Byte) (a : Nat) : (s.setFlag b).byteAt a = s.byteAt a := rfl
@[simp] theorem State.setFlag_pixel (b : Byte) (x y : Nat) : (s.setFlag b).pixel x y = s.pixel x y := rfl
@[simp] theorem State.setFlag_base (b : Byte) : (s.setFlag b).base = s.base := rfl

/-! ### `setIndex` -/

@[simp] theorem State.setIndex_v (i : Addr) : (s.setIndex i).v = s.v := rfl
@[simp] theorem State.setIndex_index (i : Addr) : (s.setIndex i).index = i := rfl
@[simp] theorem State.setIndex_pc (i : Addr) : (s.setIndex i).pc = s.pc := rfl
@[simp] theorem State.setIndex_sp (i : Addr) : (s.setIndex i).sp = s.sp := rfl
@[simp] theorem State.setIndex_stk (i : Addr) : (s.setIndex i).stk = s.stk := rfl
@[simp] theorem State.setIndex_mem (i : Addr) : (s.setIndex i).mem = s.mem := rfl
@[simp] theorem State.setIndex_fb (i : Addr) : (s.setIndex i).fb = s.fb := rfl
@[simp] theorem State.setIndex_dt (i : Addr) : (s.setIndex i).dt = s.dt := rfl
@[simp] theorem State.setIndex_st (i : Addr) : (s.setIndex i).st = s.st := rfl
@[simp] theorem State.setIndex_kw (i : Addr) : (s.setIndex i).kw = s.kw := rfl
@[simp] theorem State.setIndex_kprev (i : Addr) : (s.setIndex i).kprev = s.kprev := rfl
@[simp] theorem State.setIndex_fault (i : Addr) : (s.setIndex i).fault = s.fault := rfl
@[simp] theorem State.setIndex_env (i : Addr) : (s.setIndex i).env = s.env := rfl
@[simp] theorem State.setIndex_reg (i : Addr) (r : Reg) : (s.setIndex i).reg r = s.reg r := rfl
@[simp] theorem State.setIndex_byteAt (i : Addr) (a : Nat) : (s.setIndex i).byteAt a = s.byteAt a := rfl
@[simp] theorem State.setIndex_pixel (i : Addr) (x y : Nat) : (s.setIndex i).pixel x y = s.pixel x y := rfl

/-! ### `setPc` -/

@[simp] theorem State.setPc_v (p : Addr) : (s.setPc p).v = s.v := rfl
@[simp] theorem State.setPc_index (p : Addr) : (s.setPc p).index = s.index := rfl
@[simp] theorem State.setPc_pc (p : Addr) : (s.setPc p).pc = p := rfl
@[simp] theorem State.setPc_sp (p : Addr) : (s.setPc p).sp = s.sp := rfl
@[simp] theorem State.setPc_stk (p : Addr) : (s.setPc p).stk = s.stk := rfl
@[simp] theorem State.setPc_mem (p : Addr) : (s.setPc p).mem = s.mem := rfl
@[simp] theorem State.setPc_fb (p : Addr) : (s.setPc p).fb = s.fb := rfl
@[simp] theorem State.setPc_dt (p : Addr) : (s.setPc p).dt = s.dt := rfl
@[simp] theorem State.setPc_st (p : Addr) : (s.setPc p).st = s.st := rfl
@[simp] theorem State.setPc_kw (p : Addr) : (s.setPc p).kw = s.kw := rfl
@[simp] theorem State.setPc_kprev (p : Addr) : (s.setPc p).kprev = s.kprev := rfl
@[simp] theorem State.setPc_fault (p : Addr) : (s.setPc p).fault = s.fault := rfl
@[simp] theorem State.setPc_env (p : Addr) : (s.setPc p).env = s.env := rfl
@[simp] theorem State.setPc_reg (p : Addr) (r : Reg) : (s.setPc p).reg r = s.reg r := rfl
@[simp] theorem State.setPc_byteAt (p : Addr) (a : Nat) : (s.setPc p).byteAt a = s.byteAt a := rfl
@[simp] theorem State.setPc_pixel (p : Addr) (x y : Nat) : (s.setPc p).pixel x y = s.pixel x y := rfl
@[simp] theorem State.setPc_base (p : Addr) : (s.setPc p).base = s.base := rfl

/-! ### `advance` -/

@[simp] theorem State.advance_v : (s.advance).v = s.v := rfl
@[simp] theorem State.advance_index : (s.advance).index = s.index := rfl
@[simp] theorem State.advance_pc : (s.advance).pc = s.pc + 2 := rfl
@[simp] theorem State.advance_sp : (s.advance).sp = s.sp := rfl
@[simp] theorem State.advance_stk : (s.advance).stk = s.stk := rfl
@[simp] theorem State.advance_mem : (s.advance).mem = s.mem := rfl
@[simp] theorem State.advance_fb : (s.advance).fb = s.fb := rfl
@[simp] theorem State.advance_dt : (s.advance).dt = s.dt := rfl
@[simp] theorem State.advance_st : (s.advance).st = s.st := rfl
@[simp] theorem State.advance_kw : (s.advance).kw = s.kw := rfl
@[simp] theorem State.advance_kprev : (s.advance).kprev = s.kprev := rfl
@[simp] theorem State.advance_fault : (s.advance).fault = s.fault := rfl
@[simp] theorem State.advance_env : (s.advance).env = s.env := rfl
@[simp] theorem State.advance_reg (r : Reg) : (s.advance).reg r = s.reg r := rfl
@[simp] theorem State.advance_byteAt (a : Nat) : (s.advance).byteAt a = s.byteAt a := rfl
@[simp] theorem State.advance_pixel (x y : Nat) : (s.advance).pixel x y = s.pixel x y := rfl
@[simp] theorem State.advance_base : (s.advance).base = s.base := rfl

/-! ### `skipIf` -/

@[simp] theorem State.skipIf_v (c : Bool) : (s.skipIf c).v = s.v := rfl
@[simp] theorem State.skipIf_index (c : Bool) : (s.skipIf c).index = s.index := rfl
@[simp] theorem State.skipIf_pc (c : Bool) : (s.skipIf c).pc = if c then s.pc + 4 else s.pc + 2 := rfl
@[simp] theorem State.skipIf_sp (c : Bool) : (s.skipIf c).sp = s.sp := rfl
@[simp] theorem State.skipIf_stk (c : Bool) : (s.skipIf c).stk = s.stk := rfl
@[simp] theorem State.skipIf_mem (c : Bool) : (s.skipIf c).mem = s.mem := rfl
@[simp] theorem State.skipIf_fb (c : Bool) : (s.skipIf c).fb = s.fb := rfl
@[simp] theorem State.skipIf_dt (c : Bool) : (s.skipIf c).dt = s.dt := rfl
@[simp] theorem State.skipIf_st (c : Bool) : (s.skipIf c).st = s.st := rfl
@[simp] theorem State.skipIf_kw (c : Bool) : (s.skipIf c).kw = s.kw := rfl
@[simp] theorem State.skipIf_kprev (c : Bool) : (s.skipIf c).kprev = s.kprev := rfl
@[simp] theorem State.skipIf_fault (c : Bool) : (s.skipIf c).fault = s.fault := rfl
@[simp] theorem State.skipIf_env (c : Bool) : (s.skipIf c).env = s.env := rfl
@[simp] theorem State.skipIf_reg (c : Bool) (r : Reg) : (s.skipIf c).reg r = s.reg r := rfl
@[simp] theorem State.skipIf_byteAt (c : Bool) (a : Nat) : (s.skipIf c).byteAt a = s.byteAt a := rfl
@[simp] theorem State.skipIf_pixel (c : Bool) (x y : Nat) : (s.skipIf c).pixel x y = s.pixel x y := rfl
@[simp] theorem State.skipIf_base (c : Bool) : (s.skipIf c).base = s.base := rfl

/-! ### `setMem` -/

@[simp] theorem State.setMem_v (m : Memory) : (s.setMem m).v = s.v := rfl
@[simp] theorem State.setMem_index (m : Memory) : (s.setMem m).index = s.index := rfl
@[simp] theorem State.setMem_pc (m : Memory) : (s.setMem m).pc = s.pc := rfl
@[simp] theorem State.setMem_sp (m : Memory) : (s.setMem m).sp = s.sp := rfl
@[simp] theorem State.setMem_stk (m : Memory) : (s.setMem m).stk = s.stk := rfl
@[simp] theorem State.setMem_mem (m : Memory) : (s.setMem m).mem = m := rfl
@[simp] theorem State.setMem_fb (m : Memory) : (s.setMem m).fb = s.fb := rfl
@[simp] theorem State.setMem_dt (m : Memory) : (s.setMem m).dt = s.dt := rfl
@[simp] theorem State.setMem_st (m : Memory) : (s.setMem m).st = s.st := rfl
@[simp] theorem State.setMem_kw (m : Memory) : (s.setMem m).kw = s.kw := rfl
@[simp] theorem State.setMem_kprev (m : Memory) : (s.setMem m).kprev = s.kprev := rfl
@[simp] theorem State.setMem_fault (m : Memory) : (s.setMem m).fault = s.fault := rfl
@[simp] theorem State.setMem_env (m : Memory) : (s.setMem m).env = s.env := rfl
@[simp] theorem State.setMem_reg (m : Memory) (r : Reg) : (s.setMem m).reg r = s.reg r := rfl
@[simp] theorem State.setMem_pixel (m : Memory) (x y : Nat) : (s.setMem m).pixel x y = s.pixel x y := rfl
@[simp] theorem State.setMem_base (m : Memory) : (s.setMem m).base = s.base := rfl

/-! ### `setGrid` -/

@[simp] theorem State.setGrid_v (g : Grid) : (s.setGrid g).v = s.v := rfl
@[simp] theorem State.setGrid_index (g : Grid) : (s.setGrid g).index = s.index := rfl
@[simp] theorem State.setGrid_pc (g : Grid) : (s.setGrid g).pc = s.pc := rfl
@[simp] theorem State.setGrid_sp (g : Grid) : (s.setGrid g).sp = s.sp := rfl
@[simp] theorem State.setGrid_stk (g : Grid) : (s.setGrid g).stk = s.stk := rfl
@[simp] theorem State.setGrid_mem (g : Grid) : (s.setGrid g).mem = s.mem := rfl
@[simp] theorem State.setGrid_fb (g : Grid) : (s.setGrid g).fb = g := rfl
@[simp] theorem State.setGrid_dt (g : Grid) : (s.setGrid g).dt = s.dt := rfl
@[simp] theorem State.setGrid_st (g : Grid) : (s.setGrid g).st = s.st := rfl
@[simp] theorem State.setGrid_kw (g : Grid) : (s.setGrid g).kw = s.kw := rfl
@[simp] theorem State.setGrid_kprev (g : Grid) : (s.setGrid g).kprev = s.kprev := rfl
@[simp] theorem State.setGrid_fault (g : Grid) : (s.setGrid g).fault = s.fault := rfl
@[simp] theorem State.setGrid_env (g : Grid) : (s.setGrid g).env = s.env := rfl
@[simp] theorem State.setGrid_reg (g : Grid) (r : Reg) : (s.setGrid g).reg r = s.reg r := rfl
@[simp] theorem State.setGrid_byteAt (g : Grid) (a : Nat) : (s.setGrid g).byteAt a = s.byteAt a := rfl
@[simp] theorem State.setGrid_base (g : Grid) : (s.setGrid g).base = s.base := rfl

/-! ### `setDt` -/

@[simp] theorem State.setDt_v (b : Byte) : (s.setDt b).v = s.v := rfl
@[simp] theorem State.setDt_index (b : Byte) : (s.setDt b).index = s.index := rfl
@[simp] theorem State.setDt_pc (b : Byte) : (s.setDt b).pc = s.pc := rfl
@[simp] theorem State.setDt_sp (b : Byte) : (s.setDt b).sp = s.sp := rfl
@[simp] theorem State.setDt_stk (b : Byte) : (s.setDt b).stk = s.stk := rfl
@[simp] theorem State.setDt_mem (b : Byte) : (s.setDt b).mem = s.mem := rfl
@[simp] theorem State.setDt_fb (b : Byte) : (s.setDt b).fb = s.fb := rfl
@[simp] theorem State.setDt_dt (b : Byte) : (s.setDt b).dt = b := rfl
@[simp] theorem State.setDt_st (b : Byte) : (s.setDt b).st = s.st := rfl
@[simp] theorem State.setDt_kw (b : Byte) : (s.setDt b).kw = s.kw := rfl
@[simp] theorem State.setDt_kprev (b : Byte) : (s.setDt b).kprev = s.kprev := rfl
@[simp] theorem State.setDt_fault (b : Byte) : (s.setDt b).fault = s.fault := rfl
@[simp] theorem State.setDt_env (b : Byte) : (s.setDt b).env = s.env := rfl
@[simp] theorem State.setDt_reg (b : Byte) (r : Reg) : (s.setDt b).reg r = s.reg r := rfl
@[simp] theorem State.setDt_byteAt (b : Byte) (a : Nat) : (s.setDt b).byteAt a = s.byteAt a := rfl
@[simp] theorem State.setDt_pixel (b : Byte) (x y : Nat) : (s.setDt b).pixel x y = s.pixel x y := rfl
@[simp] theorem State.setDt_base (b : Byte) : (s.setDt b).base = s.base := rfl

/-! ### `setSt` -/

@[simp] theorem State.setSt_v (b : Byte) : (s.setSt b).v = s.v := rfl
@[simp] theorem State.setSt_index (b : Byte) : (s.setSt b).index = s.index := rfl
@[simp] theorem State.setSt_pc (b : Byte) : (s.setSt b).pc = s.pc := rfl
@[simp] theorem State.setSt_sp (b : Byte) : (s.setSt b).sp = s.sp := rfl
@[simp] theorem State.setSt_stk (b : Byte) : (s.setSt b).stk = s.stk := rfl
@[simp] theorem State.setSt_mem (b : Byte) : (s.setSt b).mem = s.mem := rfl
@[simp] theorem State.setSt_fb (b : Byte) : (s.setSt b).fb = s.fb := rfl
@[simp] theorem State.setSt_dt (b : Byte) : (s.setSt b).dt = s.dt := rfl
@[simp] theorem State.setSt_st (b : Byte) : (s.setSt b).st = b := rfl
@[simp] theorem State.setSt_kw (b : Byte) : (s.setSt b).kw = s.kw := rfl
@[simp] theorem State.setSt_kprev (b : Byte) : (s.setSt b).kprev = s.kprev := rfl
@[simp] theorem State.setSt_fault (b : Byte) : (s.setSt b).fault = s.fault := rfl
@[simp] theorem State.setSt_env (b : Byte) : (s.setSt b).env = s.env := rfl
@[simp] theorem State.setSt_reg (b : Byte) (r : Reg) : (s.setSt b).reg r = s.reg r := rfl
@[simp] theorem State.setSt_byteAt (b : Byte) (a : Nat) : (s.setSt b).byteAt a = s.byteAt a := rfl
@[simp] theorem State.setSt_pixel (b : Byte) (x y : Nat) : (s.setSt b).pixel x y = s.pixel x y := rfl
@[simp] theorem State.setSt_base (b : Byte) : (s.setSt b).base = s.base := rfl

/-! ### `setKeyWait` -/

@[simp] theorem State.setKeyWait_v (w : Bool) (k : Word) : (s.setKeyWait w k).v = s.v := rfl
@[simp] theorem State.setKeyWait_index (w : Bool) (k : Word) : (s.setKeyWait w k).index = s.index := rfl
@[simp] theorem State.setKeyWait_pc (w : Bool) (k : Word) : (s.setKeyWait w k).pc = s.pc := rfl
@[simp] theorem State.setKeyWait_sp (w : Bool) (k : Word) : (s.setKeyWait w k).sp = s.sp := rfl
@[simp] theorem State.setKeyWait_stk (w : Bool) (k : Word) : (s.setKeyWait w k).stk = s.stk := rfl
@[simp] theorem State.setKeyWait_mem (w : Bool) (k : Word) : (s.setKeyWait w k).mem = s.mem := rfl
@[simp] theorem State.setKeyWait_fb (w : Bool) (k : Word) : (s.setKeyWait w k).fb = s.fb := rfl
@[simp] theorem State.setKeyWait_dt (w : Bool) (k : Word) : (s.setKeyWait w k).dt = s.dt := rfl
@[simp] theorem State.setKeyWait_st (w : Bool) (k : Word) : (s.setKeyWait w k).st = s.st := rfl
@[simp] theorem State.setKeyWait_kw (w : Bool) (k : Word) : (s.setKeyWait w k).kw = w := rfl
@[simp] theorem State.setKeyWait_kprev (w : Bool) (k : Word) : (s.setKeyWait w k).kprev = k := rfl
@[simp] theorem State.setKeyWait_fault (w : Bool) (k : Word) : (s.setKeyWait w k).fault = s.fault := rfl
@[simp] theorem State.setKeyWait_env (w : Bool) (k : Word) : (s.setKeyWait w k).env = s.env := rfl
@[simp] theorem State.setKeyWait_reg (w : Bool) (k : Word) (r : Reg) : (s.setKeyWait w k).reg r = s.reg r := rfl
@[simp] theorem State.setKeyWait_byteAt (w : Bool) (k : Word) (a : Nat) : (s.setKeyWait w k).byteAt a = s.byteAt a := rfl
@[simp] theorem State.setKeyWait_pixel (w : Bool) (k : Word) (x y : Nat) : (s.setKeyWait w k).pixel x y = s.pixel x y := rfl
@[simp] theorem State.setKeyWait_base (w : Bool) (k : Word) : (s.setKeyWait w k).base = s.base := rfl

/-! ### `setEnv` -/

@[simp] theorem State.setEnv_v (e : Env) : (s.setEnv e).v = s.v := rfl
@[simp] theorem State.setEnv_index (e : Env) : (s.setEnv e).index = s.index := rfl
@[simp] theorem State.setEnv_pc (e : Env) : (s.setEnv e).pc = s.pc := rfl
@[simp] theorem State.setEnv_sp (e : Env) : (s.setEnv e).sp = s.sp := rfl
@[simp] theorem State.setEnv_stk (e : Env) : (s.setEnv e).stk = s.stk := rfl
@[simp] theorem State.setEnv_mem (e : Env) : (s.setEnv e).mem = s.mem := rfl
@[simp] theorem State.setEnv_fb (e : Env) : (s.setEnv e).fb = s.fb := rfl
@[simp] theorem State.setEnv_dt (e : Env) : (s.setEnv e).dt = s.dt := rfl
@[simp] theorem State.setEnv_st (e : Env) : (s.setEnv e).st = s.st := rfl
@[simp] theorem State.setEnv_kw (e : Env) : (s.setEnv e).kw = s.kw := rfl
@[simp] theorem State.setEnv_kprev (e : Env) : (s.setEnv e).kprev = s.kprev := rfl
@[simp] theorem State.setEnv_fault (e : Env) : (s.setEnv e).fault = s.fault := rfl
@[simp] theorem State.setEnv_env (e : Env) : (s.setEnv e).env = e := rfl
@[simp] theorem State.setEnv_reg (e : Env) (r : Reg) : (s.setEnv e).reg r = s.reg r := rfl
@[simp] theorem State.setEnv_byteAt (e : Env) (a : Nat) : (s.setEnv e).byteAt a = s.byteAt a := rfl
@[simp] theorem State.setEnv_pixel (e : Env) (x y : Nat) : (s.setEnv e).pixel x y = s.pixel x y := rfl
@[simp] theorem State.setEnv_base (e : Env) : (s.setEnv e).base = s.base := rfl

/-! ### `takeFault` -/

@[simp] theorem State.takeFault_v (f : Fault) (w : Option Word) : (s.takeFault f w).v = s.v := rfl
@[simp] theorem State.takeFault_index (f : Fault) (w : Option Word) : (s.takeFault f w).index = s.index := rfl
@[simp] theorem State.takeFault_pc (f : Fault) (w : Option Word) : (s.takeFault f w).pc = s.pc := rfl
@[simp] theorem State.takeFault_sp (f : Fault) (w : Option Word) : (s.takeFault f w).sp = s.sp := rfl
@[simp] theorem State.takeFault_stk (f : Fault) (w : Option Word) : (s.takeFault f w).stk = s.stk := rfl
@[simp] theorem State.takeFault_mem (f : Fault) (w : Option Word) : (s.takeFault f w).mem = s.mem := rfl
@[simp] theorem State.takeFault_fb (f : Fault) (w : Option Word) : (s.takeFault f w).fb = s.fb := rfl
@[simp] theorem State.takeFault_dt (f : Fault) (w : Option Word) : (s.takeFault f w).dt = s.dt := rfl
@[simp] theorem State.takeFault_st (f : Fault) (w : Option Word) : (s.takeFault f w).st = s.st := rfl
@[simp] theorem State.takeFault_kw (f : Fault) (w : Option Word) : (s.takeFault f w).kw = s.kw := rfl
@[simp] theorem State.takeFault_kprev (f : Fault) (w : Option Word) : (s.takeFault f w).kprev = s.kprev := rfl
@[simp] theorem State.takeFault_fault (f : Fault) (w : Option Word) : (s.takeFault f w).fault = some { cause := f.code, pc := s.pc, word := w, addr := f.recordedAddr } := rfl
@[simp] theorem State.takeFault_env (f : Fault) (w : Option Word) : (s.takeFault f w).env = s.env := rfl
@[simp] theorem State.takeFault_reg (f : Fault) (w : Option Word) (r : Reg) : (s.takeFault f w).reg r = s.reg r := rfl
@[simp] theorem State.takeFault_byteAt (f : Fault) (w : Option Word) (a : Nat) : (s.takeFault f w).byteAt a = s.byteAt a := rfl
@[simp] theorem State.takeFault_pixel (f : Fault) (w : Option Word) (x y : Nat) : (s.takeFault f w).pixel x y = s.pixel x y := rfl
@[simp] theorem State.takeFault_base (f : Fault) (w : Option Word) : (s.takeFault f w).base = s.base := rfl

/-! ### `tick` -/

@[simp] theorem State.tick_v : (s.tick).v = s.v := rfl
@[simp] theorem State.tick_index : (s.tick).index = s.index := rfl
@[simp] theorem State.tick_pc : (s.tick).pc = s.pc := rfl
@[simp] theorem State.tick_sp : (s.tick).sp = s.sp := rfl
@[simp] theorem State.tick_stk : (s.tick).stk = s.stk := rfl
@[simp] theorem State.tick_mem : (s.tick).mem = s.mem := rfl
@[simp] theorem State.tick_fb : (s.tick).fb = s.fb := rfl
@[simp] theorem State.tick_dt : (s.tick).dt = tickTimer s.dt := rfl
@[simp] theorem State.tick_st : (s.tick).st = tickTimer s.st := rfl
@[simp] theorem State.tick_kw : (s.tick).kw = s.kw := rfl
@[simp] theorem State.tick_kprev : (s.tick).kprev = s.kprev := rfl
@[simp] theorem State.tick_fault : (s.tick).fault = s.fault := rfl
@[simp] theorem State.tick_env : (s.tick).env = s.env := rfl
@[simp] theorem State.tick_reg (r : Reg) : (s.tick).reg r = s.reg r := rfl
@[simp] theorem State.tick_byteAt (a : Nat) : (s.tick).byteAt a = s.byteAt a := rfl
@[simp] theorem State.tick_pixel (x y : Nat) : (s.tick).pixel x y = s.pixel x y := rfl
@[simp] theorem State.tick_base : (s.tick).base = s.base := rfl

/-! ### `elapse` -/

@[simp] theorem State.elapse_v (n : Nat) : (s.elapse n).v = s.v := rfl
@[simp] theorem State.elapse_index (n : Nat) : (s.elapse n).index = s.index := rfl
@[simp] theorem State.elapse_pc (n : Nat) : (s.elapse n).pc = s.pc := rfl
@[simp] theorem State.elapse_sp (n : Nat) : (s.elapse n).sp = s.sp := rfl
@[simp] theorem State.elapse_stk (n : Nat) : (s.elapse n).stk = s.stk := rfl
@[simp] theorem State.elapse_mem (n : Nat) : (s.elapse n).mem = s.mem := rfl
@[simp] theorem State.elapse_fb (n : Nat) : (s.elapse n).fb = s.fb := rfl
@[simp] theorem State.elapse_dt (n : Nat) : (s.elapse n).dt = elapseTimer s.dt n := rfl
@[simp] theorem State.elapse_st (n : Nat) : (s.elapse n).st = elapseTimer s.st n := rfl
@[simp] theorem State.elapse_kw (n : Nat) : (s.elapse n).kw = s.kw := rfl
@[simp] theorem State.elapse_kprev (n : Nat) : (s.elapse n).kprev = s.kprev := rfl
@[simp] theorem State.elapse_fault (n : Nat) : (s.elapse n).fault = s.fault := rfl
@[simp] theorem State.elapse_env (n : Nat) : (s.elapse n).env = s.env := rfl
@[simp] theorem State.elapse_reg (n : Nat) (r : Reg) : (s.elapse n).reg r = s.reg r := rfl
@[simp] theorem State.elapse_byteAt (n : Nat) (a : Nat) : (s.elapse n).byteAt a = s.byteAt a := rfl
@[simp] theorem State.elapse_pixel (n : Nat) (x y : Nat) : (s.elapse n).pixel x y = s.pixel x y := rfl
@[simp] theorem State.elapse_base (n : Nat) : (s.elapse n).base = s.base := rfl

/-! ### `sampleInputs` -/

@[simp] theorem State.sampleInputs_v (k : Word) (b : Byte) : (s.sampleInputs k b).v = s.v := rfl
@[simp] theorem State.sampleInputs_index (k : Word) (b : Byte) : (s.sampleInputs k b).index = s.index := rfl
@[simp] theorem State.sampleInputs_pc (k : Word) (b : Byte) : (s.sampleInputs k b).pc = s.pc := rfl
@[simp] theorem State.sampleInputs_sp (k : Word) (b : Byte) : (s.sampleInputs k b).sp = s.sp := rfl
@[simp] theorem State.sampleInputs_stk (k : Word) (b : Byte) : (s.sampleInputs k b).stk = s.stk := rfl
@[simp] theorem State.sampleInputs_mem (k : Word) (b : Byte) : (s.sampleInputs k b).mem = s.mem := rfl
@[simp] theorem State.sampleInputs_fb (k : Word) (b : Byte) : (s.sampleInputs k b).fb = s.fb := rfl
@[simp] theorem State.sampleInputs_dt (k : Word) (b : Byte) : (s.sampleInputs k b).dt = s.dt := rfl
@[simp] theorem State.sampleInputs_st (k : Word) (b : Byte) : (s.sampleInputs k b).st = s.st := rfl
@[simp] theorem State.sampleInputs_kw (k : Word) (b : Byte) : (s.sampleInputs k b).kw = s.kw := rfl
@[simp] theorem State.sampleInputs_kprev (k : Word) (b : Byte) : (s.sampleInputs k b).kprev = s.kprev := rfl
@[simp] theorem State.sampleInputs_fault (k : Word) (b : Byte) : (s.sampleInputs k b).fault = s.fault := rfl
@[simp] theorem State.sampleInputs_env (k : Word) (b : Byte) : (s.sampleInputs k b).env = { s.env with keys := k, rnd := b, fresh := false } := rfl
@[simp] theorem State.sampleInputs_reg (k : Word) (b : Byte) (r : Reg) : (s.sampleInputs k b).reg r = s.reg r := rfl
@[simp] theorem State.sampleInputs_byteAt (k : Word) (b : Byte) (a : Nat) : (s.sampleInputs k b).byteAt a = s.byteAt a := rfl
@[simp] theorem State.sampleInputs_pixel (k : Word) (b : Byte) (x y : Nat) : (s.sampleInputs k b).pixel x y = s.pixel x y := rfl
@[simp] theorem State.sampleInputs_base (k : Word) (b : Byte) : (s.sampleInputs k b).base = s.base := rfl

/-! ### `nextTime` -/

@[simp] theorem State.nextTime_v : (s.nextTime).v = s.v := rfl
@[simp] theorem State.nextTime_index : (s.nextTime).index = s.index := rfl
@[simp] theorem State.nextTime_pc : (s.nextTime).pc = s.pc := rfl
@[simp] theorem State.nextTime_sp : (s.nextTime).sp = s.sp := rfl
@[simp] theorem State.nextTime_stk : (s.nextTime).stk = s.stk := rfl
@[simp] theorem State.nextTime_mem : (s.nextTime).mem = s.mem := rfl
@[simp] theorem State.nextTime_fb : (s.nextTime).fb = s.fb := rfl
@[simp] theorem State.nextTime_dt : (s.nextTime).dt = s.dt := rfl
@[simp] theorem State.nextTime_st : (s.nextTime).st = s.st := rfl
@[simp] theorem State.nextTime_kw : (s.nextTime).kw = s.kw := rfl
@[simp] theorem State.nextTime_kprev : (s.nextTime).kprev = s.kprev := rfl
@[simp] theorem State.nextTime_fault : (s.nextTime).fault = s.fault := rfl
@[simp] theorem State.nextTime_env : (s.nextTime).env = { s.env with time := s.env.time + 1 } := rfl
@[simp] theorem State.nextTime_reg (r : Reg) : (s.nextTime).reg r = s.reg r := rfl
@[simp] theorem State.nextTime_byteAt (a : Nat) : (s.nextTime).byteAt a = s.byteAt a := rfl
@[simp] theorem State.nextTime_pixel (x y : Nat) : (s.nextTime).pixel x y = s.pixel x y := rfl
@[simp] theorem State.nextTime_base : (s.nextTime).base = s.base := rfl

/-! ### `dropEvent` -/

@[simp] theorem State.dropEvent_v (es : List Event) : (s.dropEvent es).v = s.v := rfl
@[simp] theorem State.dropEvent_index (es : List Event) : (s.dropEvent es).index = s.index := rfl
@[simp] theorem State.dropEvent_pc (es : List Event) : (s.dropEvent es).pc = s.pc := rfl
@[simp] theorem State.dropEvent_sp (es : List Event) : (s.dropEvent es).sp = s.sp := rfl
@[simp] theorem State.dropEvent_stk (es : List Event) : (s.dropEvent es).stk = s.stk := rfl
@[simp] theorem State.dropEvent_mem (es : List Event) : (s.dropEvent es).mem = s.mem := rfl
@[simp] theorem State.dropEvent_fb (es : List Event) : (s.dropEvent es).fb = s.fb := rfl
@[simp] theorem State.dropEvent_dt (es : List Event) : (s.dropEvent es).dt = s.dt := rfl
@[simp] theorem State.dropEvent_st (es : List Event) : (s.dropEvent es).st = s.st := rfl
@[simp] theorem State.dropEvent_kw (es : List Event) : (s.dropEvent es).kw = s.kw := rfl
@[simp] theorem State.dropEvent_kprev (es : List Event) : (s.dropEvent es).kprev = s.kprev := rfl
@[simp] theorem State.dropEvent_fault (es : List Event) : (s.dropEvent es).fault = s.fault := rfl
@[simp] theorem State.dropEvent_env (es : List Event) : (s.dropEvent es).env = { s.env with events := es, time := s.env.time + 1 } := rfl
@[simp] theorem State.dropEvent_reg (es : List Event) (r : Reg) : (s.dropEvent es).reg r = s.reg r := rfl
@[simp] theorem State.dropEvent_byteAt (es : List Event) (a : Nat) : (s.dropEvent es).byteAt a = s.byteAt a := rfl
@[simp] theorem State.dropEvent_pixel (es : List Event) (x y : Nat) : (s.dropEvent es).pixel x y = s.pixel x y := rfl
@[simp] theorem State.dropEvent_base (es : List Event) : (s.dropEvent es).base = s.base := rfl

/-! ### `answerLoad` -/

@[simp] theorem State.answerLoad_v (l : LoadResult) : (s.answerLoad l).v = s.v := rfl
@[simp] theorem State.answerLoad_index (l : LoadResult) : (s.answerLoad l).index = s.index := rfl
@[simp] theorem State.answerLoad_pc (l : LoadResult) : (s.answerLoad l).pc = s.pc := rfl
@[simp] theorem State.answerLoad_sp (l : LoadResult) : (s.answerLoad l).sp = s.sp := rfl
@[simp] theorem State.answerLoad_stk (l : LoadResult) : (s.answerLoad l).stk = s.stk := rfl
@[simp] theorem State.answerLoad_mem (l : LoadResult) : (s.answerLoad l).mem = s.mem := rfl
@[simp] theorem State.answerLoad_fb (l : LoadResult) : (s.answerLoad l).fb = s.fb := rfl
@[simp] theorem State.answerLoad_dt (l : LoadResult) : (s.answerLoad l).dt = s.dt := rfl
@[simp] theorem State.answerLoad_st (l : LoadResult) : (s.answerLoad l).st = s.st := rfl
@[simp] theorem State.answerLoad_kw (l : LoadResult) : (s.answerLoad l).kw = s.kw := rfl
@[simp] theorem State.answerLoad_kprev (l : LoadResult) : (s.answerLoad l).kprev = s.kprev := rfl
@[simp] theorem State.answerLoad_fault (l : LoadResult) : (s.answerLoad l).fault = s.fault := rfl
@[simp] theorem State.answerLoad_env (l : LoadResult) : (s.answerLoad l).env = { s.env with loadResult := some l } := rfl
@[simp] theorem State.answerLoad_reg (l : LoadResult) (r : Reg) : (s.answerLoad l).reg r = s.reg r := rfl
@[simp] theorem State.answerLoad_byteAt (l : LoadResult) (a : Nat) : (s.answerLoad l).byteAt a = s.byteAt a := rfl
@[simp] theorem State.answerLoad_pixel (l : LoadResult) (x y : Nat) : (s.answerLoad l).pixel x y = s.pixel x y := rfl
@[simp] theorem State.answerLoad_base (l : LoadResult) : (s.answerLoad l).base = s.base := rfl

/-! ### `resetCore` -/

@[simp] theorem State.resetCore_v (k : Word) : (s.resetCore k).v = Vector.replicate 16 0 := rfl
@[simp] theorem State.resetCore_index (k : Word) : (s.resetCore k).index = 0 := rfl
@[simp] theorem State.resetCore_pc (k : Word) : (s.resetCore k).pc = BitVec.ofNat 16 Config.pcReset := rfl
@[simp] theorem State.resetCore_sp (k : Word) : (s.resetCore k).sp = 0 := rfl
@[simp] theorem State.resetCore_stk (k : Word) : (s.resetCore k).stk = s.stk := rfl
@[simp] theorem State.resetCore_mem (k : Word) : (s.resetCore k).mem = s.mem := rfl
@[simp] theorem State.resetCore_fb (k : Word) : (s.resetCore k).fb = s.fb := rfl
@[simp] theorem State.resetCore_dt (k : Word) : (s.resetCore k).dt = s.dt := rfl
@[simp] theorem State.resetCore_st (k : Word) : (s.resetCore k).st = s.st := rfl
@[simp] theorem State.resetCore_kw (k : Word) : (s.resetCore k).kw = false := rfl
@[simp] theorem State.resetCore_kprev (k : Word) : (s.resetCore k).kprev = k := rfl
@[simp] theorem State.resetCore_fault (k : Word) : (s.resetCore k).fault = none := rfl
@[simp] theorem State.resetCore_env (k : Word) : (s.resetCore k).env = { s.env with fresh := true } := rfl
@[simp] theorem State.resetCore_byteAt (k : Word) (a : Nat) : (s.resetCore k).byteAt a = s.byteAt a := rfl
@[simp] theorem State.resetCore_pixel (k : Word) (x y : Nat) : (s.resetCore k).pixel x y = s.pixel x y := rfl

/-! ### `resetAll` -/

@[simp] theorem State.resetAll_v (m : List Byte) (c : Vector Addr Config.stackDepth) (k : Word) : (s.resetAll m c k).v = Vector.replicate 16 0 := rfl
@[simp] theorem State.resetAll_index (m : List Byte) (c : Vector Addr Config.stackDepth) (k : Word) : (s.resetAll m c k).index = 0 := rfl
@[simp] theorem State.resetAll_pc (m : List Byte) (c : Vector Addr Config.stackDepth) (k : Word) : (s.resetAll m c k).pc = BitVec.ofNat 16 Config.pcReset := rfl
@[simp] theorem State.resetAll_sp (m : List Byte) (c : Vector Addr Config.stackDepth) (k : Word) : (s.resetAll m c k).sp = 0 := rfl
@[simp] theorem State.resetAll_stk (m : List Byte) (c : Vector Addr Config.stackDepth) (k : Word) : (s.resetAll m c k).stk = c := rfl
@[simp] theorem State.resetAll_mem (m : List Byte) (c : Vector Addr Config.stackDepth) (k : Word) : (s.resetAll m c k).mem = Memory.copyIn [] 0 m := rfl
@[simp] theorem State.resetAll_fb (m : List Byte) (c : Vector Addr Config.stackDepth) (k : Word) : (s.resetAll m c k).fb = Grid.dark := rfl
@[simp] theorem State.resetAll_dt (m : List Byte) (c : Vector Addr Config.stackDepth) (k : Word) : (s.resetAll m c k).dt = 0 := rfl
@[simp] theorem State.resetAll_st (m : List Byte) (c : Vector Addr Config.stackDepth) (k : Word) : (s.resetAll m c k).st = 0 := rfl
@[simp] theorem State.resetAll_kw (m : List Byte) (c : Vector Addr Config.stackDepth) (k : Word) : (s.resetAll m c k).kw = false := rfl
@[simp] theorem State.resetAll_kprev (m : List Byte) (c : Vector Addr Config.stackDepth) (k : Word) : (s.resetAll m c k).kprev = k := rfl
@[simp] theorem State.resetAll_fault (m : List Byte) (c : Vector Addr Config.stackDepth) (k : Word) : (s.resetAll m c k).fault = none := rfl
@[simp] theorem State.resetAll_env (m : List Byte) (c : Vector Addr Config.stackDepth) (k : Word) : (s.resetAll m c k).env = { s.env with fresh := true } := rfl

/-! ### The views where an update reaches them -/

/-- A register after a register write. -/
@[simp] theorem State.setReg_reg (q r : Reg) (b : Byte) : (s.setReg q b).reg r = if r = q then b else s.reg r := by
  simp only [State.reg, State.setReg, Vector.getElem_set, Fin.ext_iff, eq_comm]

/-- A register after a flag write. -/
@[simp] theorem State.setFlag_reg (r : Reg) (b : Byte) : (s.setFlag b).reg r = if r = flagReg then b else s.reg r :=
  s.setReg_reg flagReg r b

@[simp] theorem State.setMem_byteAt (m : Memory) (a : Nat) : (s.setMem m).byteAt a = m.read a := rfl
@[simp] theorem State.setGrid_pixel (g : Grid) (x y : Nat) : (s.setGrid g).pixel x y = g.isOn x y := rfl
@[simp] theorem State.setIndex_base (i : Addr) : (s.setIndex i).base = i.toNat := rfl

/-- Registers after a reset of the core are 0 (R291). -/
@[simp] theorem State.resetCore_reg (k : Word) (r : Reg) : (s.resetCore k).reg r = 0 := by
  simp [State.reg]

end Sys2Proof.Machine
end

