-- ==== Sys2Proof/Laws/Display.lean ====
section
/-! SUPPORT. What the display operations do, pixel by pixel: set a pixel, compose a sprite row, draw the rows (R210, R211, R213,
R214). -/

namespace Sys2Proof.Machine

/-- A pixel outside the grid is off (R210). -/
theorem Grid.isOn_outside (g : Grid) (u v : Nat) (h : ¬(u < 64 ∧ v < 32)) : g.isOn u v = false := dif_neg h

/-- Every pixel of the dark grid is off (R212). -/
@[simp] theorem Grid.isOn_dark (u v : Nat) : Grid.dark.isOn u v = false := by
  unfold Grid.isOn Grid.dark
  split <;> simp

/-- Every pixel after one is set; a pixel outside the grid cannot be set (R210). -/
theorem Grid.isOn_setPixel (g : Grid) (x y : Nat) (on : Bool) (u v : Nat) :
    (g.setPixel x y on).isOn u v = if u = x ∧ v = y ∧ u < 64 ∧ v < 32 then on else g.isOn u v := by
  unfold Grid.setPixel
  split
  · next h =>
    obtain ⟨hx, hy⟩ := h
    unfold Grid.isOn
    by_cases hin : u < Config.fbWidth ∧ v < Config.fbHeight
    · rw [dif_pos hin, dif_pos hin]
      by_cases hv : v = y
      · subst hv
        by_cases hu : u = x
        · subst hu
          simp [hin.1, hin.2]
        · simp [hu, Ne.symm hu]
      · simp [hv, Ne.symm hv]
    · rw [dif_neg hin, dif_neg hin, if_neg (fun hh => hin ⟨hh.2.2.1, hh.2.2.2⟩)]
  · next h =>
    rw [if_neg]
    rintro ⟨rfl, rfl, h1, h2⟩
    exact h ⟨h1, h2⟩

/-- One sprite bit: every pixel afterwards, and whether it collided (R211). -/
theorem Grid.composeBit_isOn (g : Grid) (x y : Nat) (bit : Bool) (u v : Nat) :
    (g.composeBit x y bit).1.isOn u v = (g.isOn u v ^^ (bit && decide (u = x ∧ v = y ∧ u < 64 ∧ v < 32))) := by
  unfold Grid.composeBit
  cases bit
  · simp
  · simp only [if_true, Grid.isOn_setPixel, Bool.true_and]
    by_cases h : u = x ∧ v = y ∧ u < 64 ∧ v < 32
    · obtain ⟨rfl, rfl, h1, h2⟩ := h
      simp [h1, h2]
    · simp only [if_neg h, decide_eq_false h, Bool.xor_false]

theorem Grid.composeBit_hit (g : Grid) (x y : Nat) (bit : Bool) : (g.composeBit x y bit).2 = (bit && g.isOn x y) := by
  unfold Grid.composeBit
  cases bit <;> simp

/-- A list of columns without repeats: every pixel afterwards (R211). -/
theorem Grid.composeCols_isOn (g : Grid) (x y : Nat) (b : Byte) (cs : List Nat) (hcs : cs.Nodup) (u v : Nat) :
    (g.composeCols x y b cs).1.isOn u v =
      (g.isOn u v ^^ decide (v = y ∧ u < 64 ∧ v < 32 ∧ ∃ c ∈ cs, u = x + c ∧ b.getLsbD (7 - c) = true)) := by
  induction cs generalizing g with
  | nil => simp [Grid.composeCols]
  | cons c cs ih =>
    obtain ⟨hc, hcs'⟩ := List.nodup_cons.1 hcs
    simp only [Grid.composeCols, ih _ hcs', Grid.composeBit_isOn, Bool.xor_assoc]
    congr 1
    by_cases hu : u = x + c
    · have hno : ¬∃ d ∈ cs, u = x + d ∧ b.getLsbD (7 - d) = true := by
        rintro ⟨d, hd, hxd, -⟩
        exact hc (by rwa [show c = d by omega])
      cases hb : b.getLsbD (7 - c) <;> simp_all [and_comm, and_left_comm]
    · have hiff : (∃ d ∈ c :: cs, u = x + d ∧ b.getLsbD (7 - d) = true) ↔ ∃ d ∈ cs, u = x + d ∧ b.getLsbD (7 - d) = true := by
        simp [hu]
      simp only [hiff, hu, false_and, decide_false, Bool.and_false, Bool.false_xor]

/-- A list of columns without repeats: whether some 1 bit fell on a pixel lit before (R211). -/
theorem Grid.composeCols_hit (g : Grid) (x y : Nat) (b : Byte) (cs : List Nat) (hcs : cs.Nodup) :
    (g.composeCols x y b cs).2 = true ↔ ∃ c ∈ cs, b.getLsbD (7 - c) = true ∧ g.isOn (x + c) y = true := by
  induction cs generalizing g with
  | nil => simp [Grid.composeCols]
  | cons c cs ih =>
    obtain ⟨hc, hcs'⟩ := List.nodup_cons.1 hcs
    simp only [Grid.composeCols, Bool.or_eq_true, ih _ hcs', Grid.composeBit_hit, Bool.and_eq_true, List.mem_cons,
      exists_eq_or_imp]
    refine or_congr Iff.rfl (exists_congr fun d => and_congr_right fun hd => and_congr_right fun _ => ?_)
    have hne : d ≠ c := fun h => hc (h ▸ hd)
    simp [Grid.composeBit_isOn, hne]

/-- The bit a sprite row `b` at `(x, y)` has for the pixel `(u, v)` of the grid (R211). -/
def rowBit (x y : Nat) (b : Byte) (u v : Nat) : Bool :=
  decide (u < 64 ∧ v < 32 ∧ x ≤ u ∧ u < x + 8 ∧ v = y) && b.getLsbD (7 - (u - x))

theorem exists_column (x u : Nat) (p : Nat → Prop) :
    (∃ c ∈ [0, 1, 2, 3, 4, 5, 6, 7], u = x + c ∧ p c) ↔ x ≤ u ∧ u < x + 8 ∧ p (u - x) := by
  constructor
  · rintro ⟨c, hc, rfl, hp⟩
    have : c < 8 := by simp at hc; omega
    exact ⟨by omega, by omega, by rwa [Nat.add_sub_cancel_left]⟩
  · rintro ⟨h1, h2, hp⟩
    exact ⟨u - x, by simp; omega, by omega, hp⟩

/-- `compose`: every pixel afterwards (R211). -/
theorem Grid.compose_isOn (g : Grid) (x y : Nat) (b : Byte) (u v : Nat) :
    (g.compose x y b).1.isOn u v = (g.isOn u v ^^ rowBit x y b u v) := by
  rw [Grid.compose, Grid.composeCols_isOn _ _ _ _ _ (by decide)]
  simp only [exists_column, rowBit]
  congr 1
  rw [Bool.eq_iff_iff]
  simp only [decide_eq_true_eq, Bool.and_eq_true]
  tauto

/-- `compose`: the collision (R211). -/
theorem Grid.compose_hit (g : Grid) (x y : Nat) (b : Byte) :
    (g.compose x y b).2 = true ↔ ∃ u v, g.isOn u v = true ∧ rowBit x y b u v = true := by
  rw [Grid.compose, Grid.composeCols_hit _ _ _ _ _ (by decide)]
  constructor
  · rintro ⟨c, hc, hb, hon⟩
    have hin : x + c < 64 ∧ y < 32 := by
      by_contra h
      rw [Grid.isOn_outside _ _ _ h] at hon
      exact absurd hon (by simp)
    have : c < 8 := by simp at hc; omega
    exact ⟨x + c, y, hon, by simp [rowBit, hin.1, hin.2, this, hb]⟩
  · rintro ⟨u, v, hon, hbit⟩
    simp only [rowBit, Bool.and_eq_true, decide_eq_true_eq] at hbit
    obtain ⟨⟨h1, h2, h3, h4, rfl⟩, hb⟩ := hbit
    exact ⟨u - x, by simp; omega, hb, by rwa [show x + (u - x) = u by omega]⟩

/-- The bit the sprite rows `bs`, drawn at `(x, y)`, have for the pixel `(u, v)` of the grid (R213, R214). -/
def rowsBit (x y : Nat) (bs : List Byte) (u v : Nat) : Bool :=
  decide (u < 64 ∧ v < 32 ∧ x ≤ u ∧ u < x + 8 ∧ y ≤ v ∧ v < y + bs.length) && (bs.getD (v - y) 0).getLsbD (7 - (u - x))

theorem rowsBit_cons (x y : Nat) (b : Byte) (bs : List Byte) (u v : Nat) :
    rowsBit x y (b :: bs) u v = (rowBit x y b u v || rowsBit x (y + 1) bs u v) ∧
      (rowBit x y b u v && rowsBit x (y + 1) bs u v) = false := by
  rcases Nat.lt_trichotomy v y with h | h | h
  · have h1 : ¬(y ≤ v) := by omega
    have h2 : ¬(y + 1 ≤ v) := by omega
    have h3 : v ≠ y := by omega
    simp [rowsBit, rowBit, h1, h2, h3]
  · subst h
    simp [rowsBit, rowBit]
  · obtain ⟨k, rfl⟩ : ∃ k, v = y + 1 + k := ⟨v - (y + 1), by omega⟩
    have h1 : y + 1 + k - y = k + 1 := by omega
    have h2 : y + 1 + k - (y + 1) = k := by omega
    have h3 : ¬(y + 1 + k = y) := by omega
    have h4 : (y ≤ y + 1 + k ∧ y + 1 + k < y + (b :: bs).length) ↔ (y + 1 ≤ y + 1 + k ∧ y + 1 + k < y + 1 + bs.length) := by
      simp; omega
    simp only [rowsBit, rowBit, h1, h2, h3, h4, List.getD_cons_succ, and_false, decide_false, Bool.false_and,
      Bool.false_or, and_self]

/-- The sprite rows: every pixel afterwards (R213, R214). -/
theorem Grid.drawRows_isOn (g : Grid) (x y : Nat) (bs : List Byte) (u v : Nat) :
    (g.drawRows x y bs).1.isOn u v = (g.isOn u v ^^ rowsBit x y bs u v) := by
  induction bs generalizing g y with
  | nil => simp [Grid.drawRows, rowsBit]
  | cons b bs ih =>
    obtain ⟨h1, h2⟩ := rowsBit_cons x y b bs u v
    simp only [Grid.drawRows, ih, Grid.compose_isOn, h1]
    revert h2
    cases rowBit x y b u v <;> cases rowsBit x (y + 1) bs u v <;> simp

/-- The sprite rows: a collision is a 1 bit on a pixel lit before the instruction (R213). -/
theorem Grid.drawRows_hit (g : Grid) (x y : Nat) (bs : List Byte) :
    (g.drawRows x y bs).2 = true ↔ ∃ u v, g.isOn u v = true ∧ rowsBit x y bs u v = true := by
  induction bs generalizing g y with
  | nil => simp [Grid.drawRows, rowsBit]
  | cons b bs ih =>
    simp only [Grid.drawRows, Bool.or_eq_true, Grid.compose_hit, ih, ← exists_or]
    refine exists_congr fun u => exists_congr fun v => ?_
    obtain ⟨h1, h2⟩ := rowsBit_cons x y b bs u v
    rw [Grid.compose_isOn, h1]
    revert h2
    cases rowBit x y b u v <;> cases rowsBit x (y + 1) bs u v <;> cases g.isOn u v <;> simp

end Sys2Proof.Machine
end

