-- ==== Sys2Proof/Laws/Memory.lean ====
section
/-! SUPPORT. The laws of memory: read after write, the canonical form is kept, what a run of reads or writes does. -/

namespace Sys2Proof.Machine

/-! ### One byte -/

/-- Dropping the entries of one address leaves every other address. -/
theorem Memory.read_drop (m : Memory) (a c : Nat) :
    Memory.read (m.filter (fun d => d.1 != a)) c = if c = a then Memory.unlisted else m.read c := by
  induction m with
  | nil => simp [Memory.read]
  | cons d m ih =>
    by_cases hd : d.1 = a
    · simp only [List.filter_cons, hd, bne_self_eq_false, Bool.false_eq_true, if_false, ih, Memory.read]
      split <;> simp_all [eq_comm]
    · have h1 : (d.1 != a) = true := by simpa using hd
      simp only [List.filter_cons, h1, if_true, Memory.read, ih]
      split <;> simp_all

/-- Listing a byte at an address that has no entry. -/
theorem Memory.read_list (m : Memory) (a c : Nat) (b : Byte) (h : ∀ d ∈ m, d.1 ≠ a) :
    Memory.read (Memory.list m a b) c = if c = a then b else m.read c := by
  induction m with
  | nil => simp [Memory.list, Memory.read, eq_comm]
  | cons d m ih =>
    have hd : d.1 ≠ a := h d (by simp)
    have ih' := ih (fun e he => h e (List.mem_cons_of_mem _ he))
    by_cases hlt : a < d.1
    · simp [Memory.list, hlt, Memory.read, eq_comm]
    · simp only [Memory.list, hlt, if_false, Memory.read, ih']
      by_cases hc : c = a <;> by_cases hdc : d.1 = c <;> simp_all

/-- Read after write: the address written gives the byte, every other address is left alone (R67). -/
@[simp] theorem Memory.read_write (m : Memory) (a c : Nat) (b : Byte) :
    (m.write a b).read c = if c = a then b else m.read c := by
  simp only [Memory.write]
  by_cases hb : b = Memory.unlisted
  · simp [hb, Memory.read_drop]
  · rw [if_neg hb, Memory.read_list _ _ _ _ (by simp), Memory.read_drop]
    split <;> simp_all

/-! ### The canonical form -/

theorem Memory.wf_cons (c : Host.Cell) (m : Memory) :
    Memory.wf (c :: m) = true ↔
      c.1 < Config.memSize ∧ c.2 ≠ Memory.unlisted ∧ (∀ d ∈ m, c.1 < d.1) ∧ Memory.wf m = true := by
  simp [Memory.wf, List.all_eq_true, and_assoc]

theorem Memory.wf_drop (m : Memory) (a : Nat) (h : m.wf = true) :
    Memory.wf (m.filter (fun d => d.1 != a)) = true := by
  induction m with
  | nil => simp [Memory.wf]
  | cons c m ih =>
    obtain ⟨h1, h2, h3, h4⟩ := (Memory.wf_cons c m).1 h
    by_cases hc : (c.1 != a) = true
    · rw [List.filter_cons, if_pos hc, Memory.wf_cons]
      exact ⟨h1, h2, fun d hd => h3 d (List.mem_filter.1 hd).1, ih h4⟩
    · rw [List.filter_cons, if_neg hc]
      exact ih h4

theorem Memory.mem_list (m : Memory) (a : Nat) (b : Byte) (d : Host.Cell) :
    d ∈ Memory.list m a b ↔ d = (a, b) ∨ d ∈ m := by
  induction m with
  | nil => simp [Memory.list]
  | cons c m ih =>
    by_cases hlt : a < c.1
    · simp [Memory.list, hlt]
    · simp [Memory.list, hlt, ih]
      tauto

theorem Memory.wf_list (m : Memory) (a : Nat) (b : Byte) (ha : a < Config.memSize) (hb : b ≠ Memory.unlisted)
    (hm : ∀ d ∈ m, d.1 ≠ a) (h : m.wf = true) : Memory.wf (Memory.list m a b) = true := by
  induction m with
  | nil => exact (Memory.wf_cons (a, b) []).2 ⟨ha, hb, by simp, rfl⟩
  | cons c m ih =>
    obtain ⟨h1, h2, h3, h4⟩ := (Memory.wf_cons c m).1 h
    by_cases hlt : a < c.1
    · rw [Memory.list, if_pos hlt]
      refine (Memory.wf_cons _ _).2 ⟨ha, hb, fun d hd => ?_, h⟩
      rcases List.mem_cons.1 hd with rfl | hd
      · exact hlt
      · exact hlt.trans (h3 d hd)
    · rw [Memory.list, if_neg hlt]
      have hca : c.1 < a := by
        have := hm c (by simp)
        omega
      refine (Memory.wf_cons _ _).2 ⟨h1, h2, fun d hd => ?_, ih (fun d hd => hm d (List.mem_cons_of_mem _ hd)) h4⟩
      rcases (Memory.mem_list m a b d).1 hd with rfl | hd
      · exact hca
      · exact h3 d hd

/-- A write keeps the canonical form. -/
theorem Memory.wf_write (m : Memory) (a : Nat) (b : Byte) (ha : a < Config.memSize) (h : m.wf = true) :
    (m.write a b).wf = true := by
  simp only [Memory.write]
  split
  · exact Memory.wf_drop m a h
  · next hb => exact Memory.wf_list _ a b ha hb (by simp) (Memory.wf_drop m a h)

/-- A host load, or a run of stores, keeps the canonical form. -/
theorem Memory.wf_copyIn (m : Memory) (base : Nat) (bs : List Byte) (h : m.wf = true) : (m.copyIn base bs).wf = true := by
  induction bs generalizing m base with
  | nil => exact h
  | cons b bs ih =>
    refine ih _ _ ?_
    split
    · next hb => exact Memory.wf_write m base b hb h
    · exact h

/-- A checked write keeps the canonical form. -/
theorem memWrite_wf (m m' : Memory) (a : Nat) (b : Byte) (h : m.wf = true) (hw : memWrite m a b = .ok m') : m'.wf = true := by
  unfold memWrite at hw
  split at hw
  · next ha => cases hw; exact Memory.wf_write m a b ha h
  · cases hw

/-- A checked run of writes keeps the canonical form. -/
theorem storeRun_wf (m m' : Memory) (base : Nat) (bs : List Byte) (h : m.wf = true) (hw : storeRun m base bs = .ok m') :
    m'.wf = true := by
  induction bs generalizing m base with
  | nil => cases hw; exact h
  | cons b bs ih =>
    rw [storeRun] at hw
    cases hm : memWrite m base b with
    | error f => rw [hm] at hw; cases hw
    | ok m1 => rw [hm] at hw; exact ih m1 (base + 1) (memWrite_wf m m1 base b h hm) hw

/-- Memory after reset is canonical. -/
theorem reset_mem_wf : State.reset.mem.wf = true := rfl

/-! ### Runs of bytes -/

/-- Every byte after a copy of `bs` from `base` on. -/
theorem Memory.read_copyIn (m : Memory) (base : Nat) (bs : List Byte) (a : Nat) :
    (m.copyIn base bs).read a =
      if base ≤ a ∧ a < base + bs.length ∧ a < 4096 then bs.getD (a - base) 0 else m.read a := by
  induction bs generalizing m base with
  | nil => simp [Memory.copyIn]; omega
  | cons b bs ih =>
    rw [Memory.copyIn, ih]
    by_cases h1 : base + 1 ≤ a ∧ a < base + 1 + bs.length ∧ a < 4096
    · have h2 : base ≤ a ∧ a < base + (b :: bs).length ∧ a < 4096 := by simp; omega
      rw [if_pos h1, if_pos h2, show a - base = (a - (base + 1)) + 1 by omega, List.getD_cons_succ]
    · rw [if_neg h1]
      by_cases ha : a = base
      · subst ha
        by_cases hs : a < 4096 <;> simp [hs]
      · have h2 : ¬(base ≤ a ∧ a < base + (b :: bs).length ∧ a < 4096) := by simp; omega
        rw [if_neg h2]
        split <;> simp [ha]

/-- The check of a run passes exactly when it is empty or ends at 4095 or below (R68). -/
theorem checkRun_ok (base len : Nat) (h : len = 0 ∨ base + len ≤ 4096) : checkRun base len = .ok () := by
  unfold checkRun
  rw [if_neg]
  simp only [Config.memSize]
  omega

/-- Otherwise it faults with the lowest offending address (R68, R251). -/
theorem checkRun_error (base len : Nat) (h : 0 < len) (h' : 4096 < base + len) :
    checkRun base len = .error (.outOfBounds (max base 4096)) := by
  unfold checkRun
  rw [if_pos]
  simp only [Config.memSize]
  omega

/-- A run of reads inside memory gives its bytes, lowest address first (R63). -/
theorem loadRun_ok (m : Memory) (base len : Nat) (h : len = 0 ∨ base + len ≤ 4096) :
    loadRun m base len = .ok ((List.range len).map (fun k => m.read (base + k))) := by
  induction len generalizing base with
  | zero => rfl
  | succ len ih =>
    have hb : base < Config.memSize := by simp only [Config.memSize]; omega
    rw [loadRun, memRead, if_pos hb, ih (base + 1) (by omega), List.range_succ_eq_map]
    simp [Function.comp_def, Nat.add_assoc, Nat.add_comm 1]

/-- A run of stores inside memory is one copy (R63). -/
theorem storeRun_ok (m : Memory) (base : Nat) (bs : List Byte) (h : base + bs.length ≤ 4096) :
    storeRun m base bs = .ok (m.copyIn base bs) := by
  induction bs generalizing m base with
  | nil => rfl
  | cons b bs ih =>
    simp only [List.length_cons] at h
    have hb : base < Config.memSize := by simp only [Config.memSize]; omega
    simp only [storeRun, memWrite, if_pos hb, Memory.copyIn]
    exact ih _ _ (by omega)

/-! ### Runs of registers -/

/-- Every register after `V[k], V[k+1], ... <- bs` (R195). -/
theorem State.setRegRun_reg (s : State) (k : Nat) (bs : List Byte) (r : Reg) :
    (s.setRegRun k bs).reg r = if k ≤ r.val ∧ r.val < k + bs.length then bs.getD (r.val - k) 0 else s.reg r := by
  induction bs generalizing s k with
  | nil => simp [State.setRegRun]
  | cons b bs ih =>
    rw [State.setRegRun, ih]
    have hr := r.isLt
    by_cases h1 : k + 1 ≤ r.val ∧ r.val < k + 1 + bs.length
    · have h2 : k ≤ r.val ∧ r.val < k + (b :: bs).length := by simp; omega
      rw [if_pos h1, if_pos h2, show r.val - k = (r.val - (k + 1)) + 1 by omega, List.getD_cons_succ]
    · rw [if_neg h1]
      by_cases hk : k = r.val
      · have h16 : k < 16 := by omega
        subst hk
        simp [h16]
      · have h2 : ¬(k ≤ r.val ∧ r.val < k + (b :: bs).length) := by simp; omega
        rw [if_neg h2]
        split
        · next h16 => simp [Fin.ext_iff, Ne.symm hk]
        · rfl

/-- A run of register writes touches the register file only. -/
theorem State.setRegRun_rest (s : State) (k : Nat) (bs : List Byte) : ∃ v, s.setRegRun k bs = { s with v := v } := by
  induction bs generalizing s k with
  | nil => exact ⟨s.v, rfl⟩
  | cons b bs ih =>
    rw [State.setRegRun]
    split
    · next h => obtain ⟨v, hv⟩ := ih (s.setReg ⟨k, h⟩ b) (k + 1); exact ⟨v, hv⟩
    · exact ih s (k + 1)

@[simp] theorem State.setRegRun_index (s : State) (k : Nat) (bs : List Byte) : (s.setRegRun k bs).index = s.index := by
  obtain ⟨_, h⟩ := s.setRegRun_rest k bs; rw [h]
@[simp] theorem State.setRegRun_pc (s : State) (k : Nat) (bs : List Byte) : (s.setRegRun k bs).pc = s.pc := by
  obtain ⟨_, h⟩ := s.setRegRun_rest k bs; rw [h]
@[simp] theorem State.setRegRun_sp (s : State) (k : Nat) (bs : List Byte) : (s.setRegRun k bs).sp = s.sp := by
  obtain ⟨_, h⟩ := s.setRegRun_rest k bs; rw [h]
@[simp] theorem State.setRegRun_stk (s : State) (k : Nat) (bs : List Byte) : (s.setRegRun k bs).stk = s.stk := by
  obtain ⟨_, h⟩ := s.setRegRun_rest k bs; rw [h]
@[simp] theorem State.setRegRun_mem (s : State) (k : Nat) (bs : List Byte) : (s.setRegRun k bs).mem = s.mem := by
  obtain ⟨_, h⟩ := s.setRegRun_rest k bs; rw [h]
@[simp] theorem State.setRegRun_fb (s : State) (k : Nat) (bs : List Byte) : (s.setRegRun k bs).fb = s.fb := by
  obtain ⟨_, h⟩ := s.setRegRun_rest k bs; rw [h]
@[simp] theorem State.setRegRun_dt (s : State) (k : Nat) (bs : List Byte) : (s.setRegRun k bs).dt = s.dt := by
  obtain ⟨_, h⟩ := s.setRegRun_rest k bs; rw [h]
@[simp] theorem State.setRegRun_st (s : State) (k : Nat) (bs : List Byte) : (s.setRegRun k bs).st = s.st := by
  obtain ⟨_, h⟩ := s.setRegRun_rest k bs; rw [h]
@[simp] theorem State.setRegRun_kw (s : State) (k : Nat) (bs : List Byte) : (s.setRegRun k bs).kw = s.kw := by
  obtain ⟨_, h⟩ := s.setRegRun_rest k bs; rw [h]
@[simp] theorem State.setRegRun_kprev (s : State) (k : Nat) (bs : List Byte) : (s.setRegRun k bs).kprev = s.kprev := by
  obtain ⟨_, h⟩ := s.setRegRun_rest k bs; rw [h]
@[simp] theorem State.setRegRun_fault (s : State) (k : Nat) (bs : List Byte) : (s.setRegRun k bs).fault = s.fault := by
  obtain ⟨_, h⟩ := s.setRegRun_rest k bs; rw [h]
@[simp] theorem State.setRegRun_env (s : State) (k : Nat) (bs : List Byte) : (s.setRegRun k bs).env = s.env := by
  obtain ⟨_, h⟩ := s.setRegRun_rest k bs; rw [h]

/-- The bytes FX55 stores: as many as registers 0 to `x`. -/
@[simp] theorem State.regRun_length (s : State) (x : Reg) : (s.regRun x).length = x.val + 1 := by
  simp [State.regRun]

/-- The bytes FX55 stores, in register order. -/
theorem State.regRun_getD (s : State) (x r : Reg) (h : r.val ≤ x.val) : (s.regRun x).getD r.val 0 = s.reg r := by
  have hr := r.isLt
  rw [List.getD_eq_getElem _ _ (by simp; omega)]
  simp [State.regRun, State.reg]

/-! ### Fetch -/

/-- The fetch succeeds exactly when `PC <= 4094`, and is big-endian (R62, R65). -/
theorem memRead2_ok (m : Memory) (a : Nat) (h : a ≤ 4094) : memRead2 m a = .ok (wordOfBytes (m.read a) (m.read (a + 1))) := by
  unfold memRead2
  rw [if_pos]
  simp only [Config.memSize]
  omega

theorem memRead2_error (m : Memory) (a : Nat) (h : 4095 ≤ a) : memRead2 m a = .error (.outOfBounds (max a 4096)) := by
  unfold memRead2
  rw [if_neg]
  simp only [Config.memSize]
  omega

end Sys2Proof.Machine
end

