-- ==== Sys2Proof/Laws/Ops.lean ====
section
/-! SUPPORT. What the call stack, fault entry and the key search do, once for every caller. -/

namespace Sys2Proof.Machine

/-- Push: a free entry takes the address and `SP` goes up; a full stack faults (R142, R253). -/
theorem push_cases (s : State) (a : Addr) :
    (∃ h : s.sp.val < Config.stackDepth,
      push s a = .ok { s with stk := s.stk.set s.sp.val a, sp := ⟨s.sp.val + 1, Nat.succ_lt_succ h⟩ }) ∨
    (s.sp.val = Config.stackDepth ∧ push s a = .error .stackOverflow) := by
  have hs := s.sp.isLt
  by_cases h : s.sp.val < Config.stackDepth
  · exact .inl ⟨h, dif_pos h⟩
  · exact .inr ⟨by omega, dif_neg h⟩

/-- Pop: the newest entry in use is given and `SP` goes down; an empty stack faults (R140, R254). -/
theorem pop_cases (s : State) :
    (s.sp.val = 0 ∧ pop s = .error .stackUnderflow) ∨
    (∃ n, ∃ h : n < Config.stackDepth, s.sp.val = n + 1 ∧
      pop s = .ok (s.stk[n]'h, { s with sp := ⟨n, Nat.lt_succ_of_lt h⟩ })) := by
  unfold pop
  split
  · next h heq => exact .inl ⟨by rw [heq], rfl⟩
  · next n h heq => exact .inr ⟨n, Nat.lt_of_succ_lt_succ h, by rw [heq], rfl⟩

/-- An instruction that ends in `finish` always goes to a next state: its own, or the fault taken (R126). -/
theorem finish_cases (i : Instr) (s : State) (r : Except Fault State) :
    (∃ t, r = .ok t ∧ finish i s r = .next t) ∨
    (∃ f, r = .error f ∧ finish i s r = .next (s.takeFault f (some (encode i)))) := by
  cases r with
  | ok t => exact .inl ⟨t, rfl, rfl⟩
  | error f => exact .inr ⟨f, rfl, rfl⟩

/-- The key search finds the smallest bit that is set (R234). -/
theorem lowestKey_some (new : Word) (j : Nat) :
    lowestKey new = some j ↔ j < 16 ∧ new.getLsbD j = true ∧ ∀ k < j, new.getLsbD k = false := by
  rw [lowestKey, List.find?_range_eq_some]
  simp [and_left_comm]

/-- The key search finds nothing exactly when no bit is set (R234). -/
theorem lowestKey_none (new : Word) : lowestKey new = none ↔ new = 0 := by
  rw [lowestKey, List.find?_eq_none]
  constructor
  · intro h
    refine BitVec.eq_of_getLsbD_eq fun i hi => ?_
    simpa using h i (by simpa using hi)
  · rintro rfl
    simp

/-- A key newly down is down in this sample and was up in the last (R234). -/
theorem newlyDown_getLsbD (k p : Word) (j : Nat) (hj : j < 16) :
    (newlyDown k p).getLsbD j = (k.getLsbD j && !p.getLsbD j) := by
  simp [newlyDown, hj]

end Sys2Proof.Machine
end

