-- ==== Sys2Proof/Laws/Exec.lean ====
section
/-! SUPPORT. The two ends of each instruction that can fault, and of a cycle: an inversion lemma each, which the statements about all
instructions and all steps cite. -/

namespace Sys2Proof.Machine

/-- The bytes of the run of `n` addresses from `I`, lowest first (R63). -/
def State.runBytes (s : State) (n : Nat) : List Byte := (List.range n).map (fun k => s.mem.read (s.base + k))

@[simp] theorem State.runBytes_length (s : State) (n : Nat) : (s.runBytes n).length = n := by
  simp [State.runBytes]

theorem State.runBytes_getD (s : State) (n k : Nat) (h : k < n) : (s.runBytes n).getD k 0 = s.byteAt (s.base + k) := by
  rw [List.getD_eq_getElem _ _ (by simpa using h)]
  simp [State.runBytes, State.byteAt]

/-- 2NNN: the call, or StackOverflow. -/
theorem execCall_cases (nnn : Addr) (s : State) :
    (∃ h : s.sp.val < Config.stackDepth, execCall nnn s =
      .next (State.setPc { s with stk := s.stk.set s.sp.val (s.pc + 2), sp := ⟨s.sp.val + 1, Nat.succ_lt_succ h⟩ } nnn)) ∨
    (s.sp.val = Config.stackDepth ∧ execCall nnn s = .next (s.takeFault .stackOverflow (some (encode (.call nnn))))) := by
  rcases push_cases s (s.pc + BitVec.ofNat 16 Config.callLinkOffset) with ⟨h, hp⟩ | ⟨h, hp⟩
  · exact .inl ⟨h, by simp only [execCall, hp, finish]; rfl⟩
  · exact .inr ⟨h, by simp only [execCall, hp, finish]⟩

/-- 00EE: the return, or StackUnderflow. -/
theorem execRet_cases (s : State) :
    (s.sp.val = 0 ∧ execRet s = .next (s.takeFault .stackUnderflow (some (encode .ret)))) ∨
    (∃ n, ∃ h : n < Config.stackDepth, s.sp.val = n + 1 ∧ execRet s =
      .next (State.setPc { s with sp := ⟨n, Nat.lt_succ_of_lt h⟩ } (s.stk[n]'h))) := by
  rcases pop_cases s with ⟨h, hp⟩ | ⟨n, hn, h, hp⟩
  · exact .inl ⟨h, by simp only [execRet, hp, finish]⟩
  · exact .inr ⟨n, hn, h, by simp only [execRet, hp, finish]⟩

/-- FX33: the digits are stored, or OutOfBounds. -/
theorem execBcd_cases (x : Reg) (s : State) :
    (s.base + 3 ≤ 4096 ∧ execBcd x s = .next (s.setMem (s.mem.copyIn s.base (bcdDigits (s.reg x)))).advance) ∨
    (4096 < s.base + 3 ∧ execBcd x s = .next (s.takeFault (.outOfBounds (max s.base 4096)) (some (encode (.bcd x))))) := by
  by_cases h : s.base + 3 ≤ 4096
  · refine .inl ⟨h, ?_⟩
    simp only [execBcd, checkRun_ok _ _ (.inr h)]
    rw [storeRun_ok _ _ _ h]
    rfl
  · refine .inr ⟨by omega, ?_⟩
    simp only [execBcd, checkRun_error _ _ (Nat.succ_pos _) (Nat.lt_of_not_le h), finish]

/-- FX55: the registers are stored, or OutOfBounds. -/
theorem execStoreRegs_cases (x : Reg) (s : State) :
    (s.base + (x.val + 1) ≤ 4096 ∧ execStoreRegs x s = .next (s.setMem (s.mem.copyIn s.base (s.regRun x))).advance) ∨
    (4096 < s.base + (x.val + 1) ∧
      execStoreRegs x s = .next (s.takeFault (.outOfBounds (max s.base 4096)) (some (encode (.storeRegs x))))) := by
  by_cases h : s.base + (x.val + 1) ≤ 4096
  · refine .inl ⟨h, ?_⟩
    simp only [execStoreRegs, checkRun_ok _ _ (.inr h)]
    rw [storeRun_ok _ _ _ (by simpa using h)]
    rfl
  · refine .inr ⟨by omega, ?_⟩
    simp only [execStoreRegs, checkRun_error _ _ (Nat.succ_pos _) (Nat.lt_of_not_le h), finish]

/-- FX65: the registers are loaded, or OutOfBounds. -/
theorem execLoadRegs_cases (x : Reg) (s : State) :
    (s.base + (x.val + 1) ≤ 4096 ∧ execLoadRegs x s =
      .next ((s.setRegRun 0 (s.runBytes (x.val + 1))).setIndex (s.index + BitVec.ofNat 16 (x.val + 1))).advance) ∨
    (4096 < s.base + (x.val + 1) ∧
      execLoadRegs x s = .next (s.takeFault (.outOfBounds (max s.base 4096)) (some (encode (.loadRegs x))))) := by
  by_cases h : s.base + (x.val + 1) ≤ 4096
  · refine .inl ⟨h, ?_⟩
    simp only [execLoadRegs, checkRun_ok _ _ (.inr h), loadRun_ok _ _ _ (.inr h)]
    rfl
  · refine .inr ⟨by omega, ?_⟩
    simp only [execLoadRegs, checkRun_error _ _ (Nat.succ_pos _) (Nat.lt_of_not_le h), finish]

/-- DXYN: the sprite is drawn, or OutOfBounds. -/
theorem execDrw_cases (x y : Reg) (n : Nat) (s : State) :
    ((n = 0 ∨ s.base + n ≤ 4096) ∧ execDrw x y n s =
      .next ((s.setGrid (s.fb.drawRows (s.reg x).toNat (s.reg y).toNat (s.runBytes n)).1).setFlag
        (flagByte (s.fb.drawRows (s.reg x).toNat (s.reg y).toNat (s.runBytes n)).2)).advance) ∨
    (0 < n ∧ 4096 < s.base + n ∧
      execDrw x y n s = .next (s.takeFault (.outOfBounds (max s.base 4096)) (some (encode (.drw x y n))))) := by
  by_cases h : n = 0 ∨ s.base + n ≤ 4096
  · refine .inl ⟨h, ?_⟩
    simp only [execDrw, checkRun_ok _ _ h, loadRun_ok _ _ _ h]
    rfl
  · have h0 : 0 < n := by omega
    have h1 : 4096 < s.base + n := by omega
    refine .inr ⟨h0, h1, ?_⟩
    simp only [execDrw, checkRun_error _ _ h0 h1, finish]

/-- FX0A: it begins to wait, goes on waiting, or captures the lowest key newly down. -/
theorem execWaitKey_cases (x : Reg) (s : State) :
    (execWaitKey x s = .next (s.setKeyWait true s.env.keys)) ∨
    (s.kw = true ∧ ∃ j, lowestKey (newlyDown s.env.keys s.kprev) = some j ∧
      execWaitKey x s = .next ((s.setReg x (BitVec.ofNat 8 j)).setKeyWait false s.kprev).advance) := by
  unfold execWaitKey State.pollKey
  cases hk : s.kw
  · simp
  · cases hj : lowestKey (newlyDown s.env.keys s.kprev) <;> simp

/-- A cycle: a stopped core stays; a fetch outside memory and an unrecognized word fault; else the instruction executes (R120, R126,
R128, R260). -/
theorem cycle_cases (k : Word) (b : Byte) (s : State) :
    (s.fault ≠ none ∧ cycle k b s = .next s) ∨
    (s.fault = none ∧ 4095 ≤ s.pc.toNat ∧
      cycle k b s = .next ((s.sampleInputs k b).takeFault (.outOfBounds (max s.pc.toNat 4096)) none)) ∨
    (s.fault = none ∧ s.pc.toNat ≤ 4094 ∧ ∃ w, s.fetch = .ok w ∧ decodeWord w = none ∧
      cycle k b s = .next ((s.sampleInputs k b).takeFault (.unrecognizedOpcode w) (some w))) ∨
    (s.fault = none ∧ s.pc.toNat ≤ 4094 ∧ ∃ w i, s.fetch = .ok w ∧ decodeWord w = some i ∧
      cycle k b s = exec i (s.sampleInputs k b)) := by
  cases hf : s.fault with
  | some r => exact .inl ⟨by simp, by simp only [cycle, hf]⟩
  | none =>
    refine .inr ?_
    by_cases hp : 4095 ≤ s.pc.toNat
    · refine .inl ⟨rfl, hp, ?_⟩
      have h : (s.sampleInputs k b).fetch = .error (.outOfBounds (max s.pc.toNat 4096)) := memRead2_error s.mem _ hp
      simp only [cycle, hf, runCycle, h]
    · have hp' : s.pc.toNat ≤ 4094 := by omega
      have h : (s.sampleInputs k b).fetch =
          .ok (wordOfBytes (s.mem.read s.pc.toNat) (s.mem.read (s.pc.toNat + 1))) := memRead2_ok s.mem _ hp'
      refine .inr ?_
      cases hd : decodeWord (wordOfBytes (s.mem.read s.pc.toNat) (s.mem.read (s.pc.toNat + 1))) with
      | none =>
        refine .inl ⟨rfl, hp', _, h, hd, ?_⟩
        simp only [cycle, hf, runCycle, h, executeWord, hd]
      | some i =>
        refine .inr ⟨rfl, hp', _, i, h, hd, ?_⟩
        simp only [cycle, hf, runCycle, h, executeWord, hd]

/-- A step is one cycle, of the queue or free, or one other event of the queue (R5, R127). -/
theorem step_cases (s : State) :
    (∃ n k b, s.env.events = [] ∧ step s = cycle k b (s.elapse n).nextTime) ∨
    (∃ k b rest, s.env.events = .cycle k b :: rest ∧ step s = cycle k b (s.dropEvent rest)) ∨
    (∃ rest, s.env.events = .tick :: rest ∧ step s = .next (s.dropEvent rest).tick) ∨
    (∃ k rest, s.env.events = .resetCore k :: rest ∧ step s = .next ((s.dropEvent rest).resetCore k)) ∨
    (∃ m c k rest, s.env.events = .resetAll m c k :: rest ∧ step s = .next ((s.dropEvent rest).resetAll m c k)) ∨
    (∃ m l rest, s.env.fresh = true ∧ (∃ e, s.env.events = e :: rest) ∧ (m = s.mem ∨ ∃ a bs, m = s.mem.copyIn a bs) ∧
      step s = .next (((s.dropEvent rest).setMem m).answerLoad l)) ∨
    step s = .refused .loadWhileRunning := by
  unfold step
  cases he : s.env.events with
  | nil => exact .inl ⟨_, _, _, rfl, rfl⟩
  | cons e rest =>
    refine .inr ?_
    cases e with
    | cycle k b => exact .inl ⟨k, b, rest, rfl, rfl⟩
    | tick => exact .inr (.inl ⟨rest, rfl, rfl⟩)
    | resetCore k => exact .inr (.inr (.inl ⟨k, rest, rfl, rfl⟩))
    | resetAll m c k => exact .inr (.inr (.inr (.inl ⟨m, c, k, rest, rfl, rfl⟩)))
    | loadFont font =>
      refine .inr (.inr (.inr (.inr ?_)))
      by_cases hf : s.env.fresh = true
      · exact .inl ⟨_, .loaded, rest, hf, ⟨_, rfl⟩, .inr ⟨0, font.toList, rfl⟩, by
          simp only [performEvent, loadFont, State.dropEvent_env, hf, if_true]; rfl⟩
      · exact .inr (by simp only [performEvent, loadFont, State.dropEvent_env, hf]; rfl)
    | loadProgram bytes =>
      refine .inr (.inr (.inr (.inr ?_)))
      by_cases hf : s.env.fresh = true
      · by_cases hl : bytes.length ≤ Config.romMax
        · exact .inl ⟨_, .loaded, rest, hf, ⟨_, rfl⟩, .inr ⟨Config.pcReset, bytes, rfl⟩, by
            simp only [performEvent, loadProgram, State.dropEvent_env, hf, hl, if_true]; rfl⟩
        · exact .inl ⟨s.mem, .romTooLarge, rest, hf, ⟨_, rfl⟩, .inl rfl, by
            simp only [performEvent, loadProgram, State.dropEvent_env, hf, hl, if_true, if_false]; rfl⟩
      · exact .inr (by simp only [performEvent, loadProgram, State.dropEvent_env, hf]; rfl)

end Sys2Proof.Machine
end

