-- ==== Sys2Proof/Laws/PerInstr.lean ====
section
/-! SUPPORT. A statement about every instruction as syntax, one lemma per constructor: the word of the instruction matches the row of
the opcode map that bears its name, and no row is needed but that one (R95, R104). -/

namespace Sys2Proof.Laws.RowMatch

/-- The encoding of the instruction matches the row of R95 with its mnemonic. -/
def Statement (i : Instr) : Prop := ∃ r ∈ opcodeMap, r.mnemonic = i.mnemonic ∧ r.isMatch (encode i) = true

/-- The row of a mnemonic is in the map: its place among the 34 rows. -/
theorem of_row (k : Nat) (r : Row) (i : Instr) (hk : opcodeMap[k]? = some r) (hm : r.mnemonic = i.mnemonic)
    (h : r.isMatch (encode i) = true) : Statement i := ⟨r, List.mem_of_getElem? hk, hm, h⟩

theorem cls : Statement (.cls) := of_row 0 ⟨"00E0", 0xFFFF, 0x00E0⟩ _ rfl rfl <| rfl

theorem ret : Statement (.ret) := of_row 1 ⟨"00EE", 0xFFFF, 0x00EE⟩ _ rfl rfl <| rfl

theorem jp (nnn : Addr) : Statement (.jp nnn) := of_row 2 ⟨"1NNN", 0xF000, 0x1000⟩ _ rfl rfl <| by
  rw [isMatch_F000, encode, wordNNN_toNat _ _ rfl (by decide)]
  change _ = (0x1000 : Nat)
  omega

theorem call (nnn : Addr) : Statement (.call nnn) := of_row 3 ⟨"2NNN", 0xF000, 0x2000⟩ _ rfl rfl <| by
  rw [isMatch_F000, encode, wordNNN_toNat _ _ rfl (by decide)]
  change _ = (0x2000 : Nat)
  omega

theorem seByte (x : Reg) (nn : Byte) : Statement (.seByte x nn) := of_row 4 ⟨"3XNN", 0xF000, 0x3000⟩ _ rfl rfl <| by
  have := x.isLt
  have := nn.isLt
  rw [isMatch_F000, encode, wordXNN_toNat _ _ _ rfl (by decide)]
  change _ = (0x3000 : Nat)
  omega

theorem sneByte (x : Reg) (nn : Byte) : Statement (.sneByte x nn) := of_row 5 ⟨"4XNN", 0xF000, 0x4000⟩ _ rfl rfl <| by
  have := x.isLt
  have := nn.isLt
  rw [isMatch_F000, encode, wordXNN_toNat _ _ _ rfl (by decide)]
  change _ = (0x4000 : Nat)
  omega

theorem seReg (x y : Reg) : Statement (.seReg x y) := of_row 6 ⟨"5XY0", 0xF00F, 0x5000⟩ _ rfl rfl <| by
  have := x.isLt
  have := y.isLt
  rw [isMatch_F00F, encode, wordXY_toNat _ _ _ (by decide) (by decide)]
  change _ = (0x5000 : Nat)
  omega

theorem ldByte (x : Reg) (nn : Byte) : Statement (.ldByte x nn) := of_row 7 ⟨"6XNN", 0xF000, 0x6000⟩ _ rfl rfl <| by
  have := x.isLt
  have := nn.isLt
  rw [isMatch_F000, encode, wordXNN_toNat _ _ _ rfl (by decide)]
  change _ = (0x6000 : Nat)
  omega

theorem addByte (x : Reg) (nn : Byte) : Statement (.addByte x nn) := of_row 8 ⟨"7XNN", 0xF000, 0x7000⟩ _ rfl rfl <| by
  have := x.isLt
  have := nn.isLt
  rw [isMatch_F000, encode, wordXNN_toNat _ _ _ rfl (by decide)]
  change _ = (0x7000 : Nat)
  omega

theorem ldReg (x y : Reg) : Statement (.ldReg x y) := of_row 9 ⟨"8XY0", 0xF00F, 0x8000⟩ _ rfl rfl <| by
  have := x.isLt
  have := y.isLt
  rw [isMatch_F00F, encode, wordXY_toNat _ _ _ (by decide) (by decide)]
  change _ = (0x8000 : Nat)
  omega

theorem orReg (x y : Reg) : Statement (.orReg x y) := of_row 10 ⟨"8XY1", 0xF00F, 0x8001⟩ _ rfl rfl <| by
  have := x.isLt
  have := y.isLt
  rw [isMatch_F00F, encode, wordXY_toNat _ _ _ (by decide) (by decide)]
  change _ = (0x8001 : Nat)
  omega

theorem andReg (x y : Reg) : Statement (.andReg x y) := of_row 11 ⟨"8XY2", 0xF00F, 0x8002⟩ _ rfl rfl <| by
  have := x.isLt
  have := y.isLt
  rw [isMatch_F00F, encode, wordXY_toNat _ _ _ (by decide) (by decide)]
  change _ = (0x8002 : Nat)
  omega

theorem xorReg (x y : Reg) : Statement (.xorReg x y) := of_row 12 ⟨"8XY3", 0xF00F, 0x8003⟩ _ rfl rfl <| by
  have := x.isLt
  have := y.isLt
  rw [isMatch_F00F, encode, wordXY_toNat _ _ _ (by decide) (by decide)]
  change _ = (0x8003 : Nat)
  omega

theorem addReg (x y : Reg) : Statement (.addReg x y) := of_row 13 ⟨"8XY4", 0xF00F, 0x8004⟩ _ rfl rfl <| by
  have := x.isLt
  have := y.isLt
  rw [isMatch_F00F, encode, wordXY_toNat _ _ _ (by decide) (by decide)]
  change _ = (0x8004 : Nat)
  omega

theorem subReg (x y : Reg) : Statement (.subReg x y) := of_row 14 ⟨"8XY5", 0xF00F, 0x8005⟩ _ rfl rfl <| by
  have := x.isLt
  have := y.isLt
  rw [isMatch_F00F, encode, wordXY_toNat _ _ _ (by decide) (by decide)]
  change _ = (0x8005 : Nat)
  omega

theorem shr (x y : Reg) : Statement (.shr x y) := of_row 15 ⟨"8XY6", 0xF00F, 0x8006⟩ _ rfl rfl <| by
  have := x.isLt
  have := y.isLt
  rw [isMatch_F00F, encode, wordXY_toNat _ _ _ (by decide) (by decide)]
  change _ = (0x8006 : Nat)
  omega

theorem subnReg (x y : Reg) : Statement (.subnReg x y) := of_row 16 ⟨"8XY7", 0xF00F, 0x8007⟩ _ rfl rfl <| by
  have := x.isLt
  have := y.isLt
  rw [isMatch_F00F, encode, wordXY_toNat _ _ _ (by decide) (by decide)]
  change _ = (0x8007 : Nat)
  omega

theorem shl (x y : Reg) : Statement (.shl x y) := of_row 17 ⟨"8XYE", 0xF00F, 0x800E⟩ _ rfl rfl <| by
  have := x.isLt
  have := y.isLt
  rw [isMatch_F00F, encode, wordXY_toNat _ _ _ (by decide) (by decide)]
  change _ = (0x800E : Nat)
  omega

theorem sneReg (x y : Reg) : Statement (.sneReg x y) := of_row 18 ⟨"9XY0", 0xF00F, 0x9000⟩ _ rfl rfl <| by
  have := x.isLt
  have := y.isLt
  rw [isMatch_F00F, encode, wordXY_toNat _ _ _ (by decide) (by decide)]
  change _ = (0x9000 : Nat)
  omega

theorem ldI (nnn : Addr) : Statement (.ldI nnn) := of_row 19 ⟨"ANNN", 0xF000, 0xA000⟩ _ rfl rfl <| by
  rw [isMatch_F000, encode, wordNNN_toNat _ _ rfl (by decide)]
  change _ = (0xA000 : Nat)
  omega

theorem jpV0 (nnn : Addr) : Statement (.jpV0 nnn) := of_row 20 ⟨"BNNN", 0xF000, 0xB000⟩ _ rfl rfl <| by
  rw [isMatch_F000, encode, wordNNN_toNat _ _ rfl (by decide)]
  change _ = (0xB000 : Nat)
  omega

theorem rnd (x : Reg) (nn : Byte) : Statement (.rnd x nn) := of_row 21 ⟨"CXNN", 0xF000, 0xC000⟩ _ rfl rfl <| by
  have := x.isLt
  have := nn.isLt
  rw [isMatch_F000, encode, wordXNN_toNat _ _ _ rfl (by decide)]
  change _ = (0xC000 : Nat)
  omega

theorem drw (x y : Reg) (n : Nat) : Statement (.drw x y n) := of_row 22 ⟨"DXYN", 0xF000, 0xD000⟩ _ rfl rfl <| by
  have := x.isLt
  have := y.isLt
  rw [isMatch_F000, encode, wordXY_toNat _ _ _ (by omega) (by omega)]
  change _ = (0xD000 : Nat)
  omega

theorem skp (x : Reg) : Statement (.skp x) := of_row 23 ⟨"EX9E", 0xF0FF, 0xE09E⟩ _ rfl rfl <| by
  have := x.isLt
  rw [isMatch_F0FF, encode, wordX_toNat _ _ (by decide) (by decide)]
  change _ = (0xE09E : Nat)
  omega

theorem sknp (x : Reg) : Statement (.sknp x) := of_row 24 ⟨"EXA1", 0xF0FF, 0xE0A1⟩ _ rfl rfl <| by
  have := x.isLt
  rw [isMatch_F0FF, encode, wordX_toNat _ _ (by decide) (by decide)]
  change _ = (0xE0A1 : Nat)
  omega

theorem getDelay (x : Reg) : Statement (.getDelay x) := of_row 25 ⟨"FX07", 0xF0FF, 0xF007⟩ _ rfl rfl <| by
  have := x.isLt
  rw [isMatch_F0FF, encode, wordX_toNat _ _ (by decide) (by decide)]
  change _ = (0xF007 : Nat)
  omega

theorem waitKey (x : Reg) : Statement (.waitKey x) := of_row 26 ⟨"FX0A", 0xF0FF, 0xF00A⟩ _ rfl rfl <| by
  have := x.isLt
  rw [isMatch_F0FF, encode, wordX_toNat _ _ (by decide) (by decide)]
  change _ = (0xF00A : Nat)
  omega

theorem setDelay (x : Reg) : Statement (.setDelay x) := of_row 27 ⟨"FX15", 0xF0FF, 0xF015⟩ _ rfl rfl <| by
  have := x.isLt
  rw [isMatch_F0FF, encode, wordX_toNat _ _ (by decide) (by decide)]
  change _ = (0xF015 : Nat)
  omega

theorem setSound (x : Reg) : Statement (.setSound x) := of_row 28 ⟨"FX18", 0xF0FF, 0xF018⟩ _ rfl rfl <| by
  have := x.isLt
  rw [isMatch_F0FF, encode, wordX_toNat _ _ (by decide) (by decide)]
  change _ = (0xF018 : Nat)
  omega

theorem addI (x : Reg) : Statement (.addI x) := of_row 29 ⟨"FX1E", 0xF0FF, 0xF01E⟩ _ rfl rfl <| by
  have := x.isLt
  rw [isMatch_F0FF, encode, wordX_toNat _ _ (by decide) (by decide)]
  change _ = (0xF01E : Nat)
  omega

theorem ldFont (x : Reg) : Statement (.ldFont x) := of_row 30 ⟨"FX29", 0xF0FF, 0xF029⟩ _ rfl rfl <| by
  have := x.isLt
  rw [isMatch_F0FF, encode, wordX_toNat _ _ (by decide) (by decide)]
  change _ = (0xF029 : Nat)
  omega

theorem bcd (x : Reg) : Statement (.bcd x) := of_row 31 ⟨"FX33", 0xF0FF, 0xF033⟩ _ rfl rfl <| by
  have := x.isLt
  rw [isMatch_F0FF, encode, wordX_toNat _ _ (by decide) (by decide)]
  change _ = (0xF033 : Nat)
  omega

theorem storeRegs (x : Reg) : Statement (.storeRegs x) := of_row 32 ⟨"FX55", 0xF0FF, 0xF055⟩ _ rfl rfl <| by
  have := x.isLt
  rw [isMatch_F0FF, encode, wordX_toNat _ _ (by decide) (by decide)]
  change _ = (0xF055 : Nat)
  omega

theorem loadRegs (x : Reg) : Statement (.loadRegs x) := of_row 33 ⟨"FX65", 0xF0FF, 0xF065⟩ _ rfl rfl <| by
  have := x.isLt
  rw [isMatch_F0FF, encode, wordX_toNat _ _ (by decide) (by decide)]
  change _ = (0xF065 : Nat)
  omega

end Sys2Proof.Laws.RowMatch
end

