-- ==== Sys2Proof/Tests/Slice0.lean ====
section
/-! SUPPORT. Tests of the model, each on one small state and at most one step. Expected results are the spec's vectors
(spec/95_test_vectors.md; the vector's name stands before each test) or are worked out by hand from the rule named. Then the
witnesses: for each statement with hypotheses, a state and operands that meet them. -/

namespace Sys2Proof.Tests

open Sys2Proof.Machine

-- one theorem after another: many small evaluations at once ask for more threads than a sandbox gives
set_option Elab.async false

/-! ### Helpers -/

/-- Set registers. -/
def setRegs (s : State) : List (Reg × Byte) → State
  | [] => s
  | p :: ps => setRegs (s.setReg p.1 p.2) ps

/-- Store bytes. -/
def poke (s : State) (a : Nat) (bs : List Byte) : State := s.setMem (s.mem.copyIn a bs)

/-- Light pixels. -/
def light (s : State) : List (Nat × Nat) → State
  | [] => s
  | p :: ps => light (s.setGrid (s.fb.setPixel p.1 p.2 true)) ps

/-- Use call-stack entries. -/
def withStack (s : State) (sp : Fin 17) (a : Addr) : State :=
  { s with sp := sp, stk := Vector.replicate 16 a }

/-- Queue events. -/
def withEvents (s : State) (es : List Event) : State := { s with env := { s.env with events := es } }

/-- The property holds of the next state; false on a stop. -/
def nextIs (o : Outcome) (p : State → Bool) : Bool :=
  match o with
  | .next t => p t
  | .fault _ => false
  | .refused _ => false

/-- One step, a cycle with the sample `k` and the random byte `b`, that runs the word `w` placed at `PC`. -/
def runWord (s : State) (w : Nat) (k : Word) (b : Byte) (p : State → Bool) : Bool :=
  nextIs (step (withEvents (s.withFetchWord 16 w) [.cycle k b])) p

/-- One step with one event queued. -/
def runEvent (s : State) (e : Event) (p : State → Bool) : Bool := nextIs (step (withEvents s [e])) p

/-- The state after reset with registers set. -/
def regs (l : List (Reg × Byte)) : State := setRegs State.reset l

/-- The lit pixels among some. -/
def litOf (s : State) (l : List (Nat × Nat)) : List (Nat × Nat) := l.filter (fun p => s.pixel p.1 p.2)

/-! ### Well-formedness -/

/-- A NNN operand above 12 bits is refused, in every instruction that has one. -/
theorem test_wf_nnn :
    (Instr.jp 0x1000).wellFormed = false ∧ (Instr.call 0x1000).wellFormed = false ∧ (Instr.ldI 0x1000).wellFormed = false ∧
      (Instr.jpV0 0x1000).wellFormed = false ∧ (Instr.jp 0x0FFF).wellFormed = true := by decide

/-- A row count above 4 bits is refused. -/
theorem test_wf_n : (Instr.drw 0 0 16).wellFormed = false ∧ (Instr.drw 0 0 15).wellFormed = true := by decide

/-! ### Decoding: a word of every constructor, written out from the formats and the match column (R91, R92, R95, V-DECODE) -/

theorem test_decode_fixed : decodeWord 0x00E0 = some .cls ∧ decodeWord 0x00EE = some .ret := by decide
theorem test_decode_jp : decodeWord 0b0001_0010_0000_0100 = some (.jp 0x204) := by decide
theorem test_decode_call : decodeWord 0b0010_0010_0000_1010 = some (.call 0x20A) := by decide
theorem test_decode_seByte : decodeWord 0b0011_1111_0000_0001 = some (.seByte 15 1) := by decide
theorem test_decode_sneByte : decodeWord 0b0100_0010_0000_0111 = some (.sneByte 2 7) := by decide
theorem test_decode_seReg : decodeWord 0b0101_0001_0010_0000 = some (.seReg 1 2) := by decide
theorem test_decode_ldByte : decodeWord 0b0110_1010_0010_1111 = some (.ldByte 10 0x2F) := by decide
theorem test_decode_addByte : decodeWord 0b0111_0001_1111_1111 = some (.addByte 1 0xFF) := by decide
theorem test_decode_ldReg : decodeWord 0b1000_1010_1011_0000 = some (.ldReg 10 11) := by decide
theorem test_decode_orReg : decodeWord 0b1000_1010_1011_0001 = some (.orReg 10 11) := by decide
theorem test_decode_andReg : decodeWord 0b1000_1010_1011_0010 = some (.andReg 10 11) := by decide
theorem test_decode_xorReg : decodeWord 0b1000_1010_1011_0011 = some (.xorReg 10 11) := by decide
theorem test_decode_addReg : decodeWord 0b1000_1010_1011_0100 = some (.addReg 10 11) := by decide
theorem test_decode_subReg : decodeWord 0b1000_1010_1011_0101 = some (.subReg 10 11) := by decide
theorem test_decode_shr : decodeWord 0b1000_1010_1011_0110 = some (.shr 10 11) := by decide
theorem test_decode_subnReg : decodeWord 0b1000_1010_1011_0111 = some (.subnReg 10 11) := by decide
theorem test_decode_shl : decodeWord 0b1000_1010_1011_1110 = some (.shl 10 11) := by decide
theorem test_decode_sneReg : decodeWord 0b1001_1010_1011_0000 = some (.sneReg 10 11) := by decide
theorem test_decode_ldI : decodeWord 0b1010_0011_0000_0000 = some (.ldI 0x300) := by decide
theorem test_decode_jpV0 : decodeWord 0b1011_1111_1111_1111 = some (.jpV0 0xFFF) := by decide
theorem test_decode_rnd : decodeWord 0b1100_0001_0000_1111 = some (.rnd 1 0x0F) := by decide
theorem test_decode_drw : decodeWord 0b1101_0001_0010_0101 = some (.drw 1 2 5) := by decide
theorem test_decode_skp : decodeWord 0b1110_1111_1001_1110 = some (.skp 15) := by decide
theorem test_decode_sknp : decodeWord 0b1110_0001_1010_0001 = some (.sknp 1) := by decide
theorem test_decode_getDelay : decodeWord 0b1111_0001_0000_0111 = some (.getDelay 1) := by decide
theorem test_decode_waitKey : decodeWord 0b1111_0010_0000_1010 = some (.waitKey 2) := by decide
theorem test_decode_setDelay : decodeWord 0b1111_0011_0001_0101 = some (.setDelay 3) := by decide
theorem test_decode_setSound : decodeWord 0b1111_0100_0001_1000 = some (.setSound 4) := by decide
theorem test_decode_addI : decodeWord 0b1111_0101_0001_1110 = some (.addI 5) := by decide
theorem test_decode_ldFont : decodeWord 0b1111_0110_0010_1001 = some (.ldFont 6) := by decide
theorem test_decode_bcd : decodeWord 0b1111_0111_0011_0011 = some (.bcd 7) := by decide
theorem test_decode_storeRegs : decodeWord 0b1111_1000_0101_0101 = some (.storeRegs 8) := by decide
theorem test_decode_loadRegs : decodeWord 0b1111_0010_0110_0101 = some (.loadRegs 2) := by decide

/-- V-DECODE, the unrecognized words. -/
theorem test_decode_unrecognized :
    ([0x0000, 0x00E1, 0x00EF, 0x00FE, 0x01E0, 0x0AEE, 0x0FFF, 0x5121, 0x512F, 0x9AB1, 0x9ABF, 0x8AB8, 0x8ABD, 0x8ABF,
      0xE09F, 0xE000, 0xE1A0, 0xE19D, 0xF000, 0xF030, 0xF075, 0xF085, 0xF0FF, 0xFFFF] : List Word).all
      (fun w => (decodeWord w).isNone) = true := by decide

/-- R104, the rule's own examples. -/
theorem test_encode_examples :
    encode (.ldByte 10 0x2F) = 0x6A2F ∧ encode (.drw 1 2 5) = 0xD125 ∧ encode (.call 0x20A) = 0x220A ∧
      encode (.loadRegs 2) = 0xF265 := by decide

/-- Two bytes, high byte first; fewer are no instruction (R62, R90). -/
theorem test_decode_bytes :
    decode [0x12, 0x34, 0x56] = .ok (.jp 0x234, [0x56]) ∧ decode [0x12] = .error .truncated ∧
      decode [0xFF, 0xFF] = .error (.unrecognized 0xFFFF) := ⟨rfl, rfl, rfl⟩

/-- X9. -/
theorem test_fetch_order :
    memRead2 (Memory.copyIn [] 0x200 [0x12, 0x34, 0x56, 0x78]) 0x201 = .ok 0x3456#16 := by rfl

/-- Every row of the opcode map is decoded from its table word, and runs as the first instruction after reset. -/
theorem test_rows_decode :
    opcodeMap.all (fun r => (decodeTableWord 16 r.pattern.toNat).map Instr.mnemonic == some r.mnemonic) = true := by
  decide +kernel

theorem test_rows_run :
    opcodeMap.all (fun r => runWord State.reset r.pattern.toNat 0 0
      (fun t => t.fault.isNone || r.mnemonic == "00EE")) = true := by decide +kernel

/-- The same with no event queued, where the inputs are free. -/
theorem test_rows_run_free :
    opcodeMap.all (fun r => nextIs (step (State.reset.withFetchWord 16 r.pattern.toNat)) (fun _ => true)) = true := by
  decide +kernel

/-! ### Control transfer -/

/-- F1. -/
theorem test_ret_pops :
    runWord ((withStack State.reset 1 0x206).setPc 0x20C) 0x00EE 0 0 (fun t => t.pc == 0x206 && t.sp == 0) = true := by decide +kernel

/-- F2. -/
theorem test_ret_underflow :
    runWord State.reset 0x00EE 0 0 (fun t => t.pc == 0x200 && t.sp == 0 &&
      t.fault == some { cause := 4, pc := 0x200, word := some 0x00EE, addr := none }) = true := by decide +kernel

/-- F4. -/
theorem test_jp_last_byte : runWord State.reset 0x1FFF 0 0 (fun t => t.pc == 0xFFF && t.fault == none) = true := by decide +kernel

/-- F8. -/
theorem test_call_at_end :
    runWord (State.reset.setPc 0xFFE) 0x2200 0 0
      (fun t => t.stk[0] == 0x1000 && t.sp == 1 && t.pc == 0x200) = true := by decide +kernel

/-- F7. -/
theorem test_call_overflow :
    runWord ((withStack State.reset 16 0x202).setPc 0x300) 0x2400 0 0
      (fun t => t.sp == 16 && t.pc == 0x300 &&
        t.fault == some { cause := 3, pc := 0x300, word := some 0x2400, addr := none }) = true := by decide +kernel

/-- F10, F11. -/
theorem test_jpV0 :
    runWord (regs [(0, 0xFF)]) 0xBFFF 0 0 (fun t => t.pc == 0x10FE) = true ∧
      runWord (regs [(0, 2), (2, 0x80)]) 0xB2F0 0 0 (fun t => t.pc == 0x2F2) = true := by decide +kernel

/-- F12. -/
theorem test_seByte :
    runWord (State.reset.setPc 0x208) 0x3100 0 0 (fun t => t.pc == 0x20C) = true ∧
      runWord ((regs [(1, 4)]).setPc 0x208) 0x3100 0 0 (fun t => t.pc == 0x20A) = true := by decide +kernel

/-- F13. -/
theorem test_sneByte :
    runWord ((regs [(2, 7)]).setPc 0x300) 0x4207 0 0 (fun t => t.pc == 0x302) = true ∧
      runWord ((regs [(2, 7)]).setPc 0x300) 0x4208 0 0 (fun t => t.pc == 0x304) = true := by decide +kernel

/-- F14. -/
theorem test_seReg :
    runWord ((regs [(3, 0x10), (4, 0x10)]).setPc 0x210) 0x5340 0 0 (fun t => t.pc == 0x214) = true ∧
      runWord ((regs [(3, 0x10), (4, 0x11)]).setPc 0x210) 0x5340 0 0 (fun t => t.pc == 0x212) = true := by decide +kernel

/-- F15. -/
theorem test_sneReg :
    runWord ((regs [(3, 1), (4, 2)]).setPc 0x210) 0x9340 0 0 (fun t => t.pc == 0x214) = true ∧
      runWord ((regs [(3, 1), (4, 1)]).setPc 0x210) 0x9340 0 0 (fun t => t.pc == 0x212) = true := by decide +kernel

/-! ### Registers and arithmetic -/

/-- A1. -/
theorem test_ldByte : runWord State.reset 0x6A2F 0 0 (fun t => t.reg 10 == 0x2F && t.pc == 0x202) = true := by decide +kernel

/-- A2, A4. -/
theorem test_addByte :
    runWord (regs [(1, 0xFE), (15, 1)]) 0x7105 0 0 (fun t => t.reg 1 == 3 && t.reg 15 == 1) = true ∧
      runWord (regs [(15, 0xFF)]) 0x7F01 0 0 (fun t => t.reg 15 == 0) = true := by decide +kernel

/-- A5. -/
theorem test_ldReg : runWord (regs [(2, 0x37)]) 0x8120 0 0 (fun t => t.reg 1 == 0x37 && t.reg 2 == 0x37) = true := by decide +kernel

/-- A6. -/
theorem test_orReg :
    runWord (regs [(1, 0x0F), (2, 0xF0), (15, 1)]) 0x8121 0 0 (fun t => t.reg 1 == 0xFF && t.reg 15 == 1) = true := by decide +kernel

/-- A7. -/
theorem test_andReg :
    runWord (regs [(1, 0x3C), (2, 0x0F), (15, 1)]) 0x8122 0 0 (fun t => t.reg 1 == 0x0C && t.reg 15 == 1) = true := by decide +kernel

/-- A8. -/
theorem test_xorReg :
    runWord (regs [(1, 0xFF), (2, 0x0F), (15, 1)]) 0x8123 0 0 (fun t => t.reg 1 == 0xF0 && t.reg 15 == 1) = true := by decide +kernel

/-- A9c, A10a. -/
theorem test_addReg :
    runWord (regs [(1, 255), (15, 1)]) 0x8124 0 0 (fun t => t.reg 1 == 255 && t.reg 15 == 0) = true ∧
      runWord (regs [(15, 200), (1, 100)]) 0x8F14 0 0 (fun t => t.reg 15 == 1 && t.reg 1 == 100) = true := by decide +kernel

/-- A12c, A14b. -/
theorem test_subReg :
    runWord (regs [(1, 7), (2, 7)]) 0x8125 0 0 (fun t => t.reg 1 == 0 && t.reg 15 == 1) = true ∧
      runWord (regs [(15, 1)]) 0x81F5 0 0 (fun t => t.reg 1 == 255 && t.reg 15 == 0) = true := by decide +kernel

/-- A15d, A16. -/
theorem test_shr :
    runWord (regs [(3, 5), (10, 0xAA)]) 0x83A6 0 0 (fun t => t.reg 3 == 2 && t.reg 15 == 1 && t.reg 10 == 0xAA) = true ∧
      runWord (regs [(15, 0xFF)]) 0x8F06 0 0 (fun t => t.reg 15 == 0) = true := by decide +kernel

/-- A17b, A18a. -/
theorem test_subnReg :
    runWord (regs [(1, 10), (2, 5), (15, 1)]) 0x8127 0 0 (fun t => t.reg 1 == 251 && t.reg 15 == 0) = true ∧
      runWord (regs [(15, 3), (1, 9)]) 0x8F17 0 0 (fun t => t.reg 15 == 1 && t.reg 1 == 9) = true := by decide +kernel

/-- A19a, A20c. -/
theorem test_shl :
    runWord (regs [(3, 0x81)]) 0x830E 0 0 (fun t => t.reg 3 == 2 && t.reg 15 == 1) = true ∧
      runWord (regs [(15, 0xC1)]) 0x8FFE 0 0 (fun t => t.reg 15 == 2) = true := by decide +kernel

/-- A21a, A21d. -/
theorem test_rnd :
    runWord State.reset 0xC10F 0 0xB7 (fun t => t.reg 1 == 7) = true ∧
      runWord (regs [(15, 1)]) 0xCF0F 0 0xB7 (fun t => t.reg 15 == 7) = true := by decide +kernel

/-! ### Index register and memory -/

/-- M1. -/
theorem test_ldI : runWord (State.reset.setIndex 0xFFFF) 0xA300 0 0 (fun t => t.index == 0x300) = true := by decide +kernel

/-- M2b, M2c. -/
theorem test_addI :
    runWord ((regs [(2, 1)]).setIndex 0xFFFF) 0xF21E 0 0 (fun t => t.index == 0 && t.reg 15 == 0) = true ∧
      runWord ((regs [(2, 1)]).setIndex 0x0FFF) 0xF21E 0 0 (fun t => t.index == 0x1000 && t.fault == none) = true := by decide +kernel

/-- M3. -/
theorem test_ldFont :
    runWord (regs [(0, 0x10)]) 0xF029 0 0 (fun t => t.index == 0x50) = true ∧
      runWord (regs [(0, 0xFF)]) 0xF029 0 0 (fun t => t.index == 1275) = true := by decide +kernel

/-- M4c, M4d. -/
theorem test_bcd :
    runWord ((regs [(0, 199)]).setIndex 0xFFD) 0xF033 0 0 (fun t => t.fault == none && t.index == 0xFFD &&
      t.byteAt 0xFFD == 1 && t.byteAt 0xFFE == 9 && t.byteAt 0xFFF == 9) = true ∧
      runWord ((regs [(0, 199)]).setIndex 0xFFE) 0xF033 0 0 (fun t => t.byteAt 0xFFE == 0 && t.byteAt 0xFFF == 0 && t.pc == 0x200 &&
        t.fault == some { cause := 1, pc := 0x200, word := some 0xF033, addr := some 4096 }) = true := by decide +kernel

/-- M5a, and the next byte kept (the spec's "`MEM[0x403]` unchanged"). -/
theorem test_storeRegs :
    runWord (poke ((regs [(0, 0x11), (1, 0x22), (2, 0x33)]).setIndex 0x400) 0x403 [0x44]) 0xF255 0 0
      (fun t => t.byteAt 0x400 == 0x11 && t.byteAt 0x401 == 0x22 && t.byteAt 0x402 == 0x33 && t.byteAt 0x403 == 0x44 &&
        t.index == 0x400) = true := by decide +kernel

/-- M5c. -/
theorem test_storeRegs_fault :
    runWord ((regs [(0, 0xA0), (1, 0xA1)]).setIndex 0xFF1) 0xFF55 0 0 (fun t => t.byteAt 0xFF1 == 0 && t.byteAt 0xFF2 == 0 &&
      t.fault == some { cause := 1, pc := 0x200, word := some 0xFF55, addr := some 4096 }) = true := by decide +kernel

/-- M6a. -/
theorem test_loadRegs :
    runWord (poke ((regs [(3, 9)]).setIndex 0x300) 0x300 [2, 5, 4, 7]) 0xF265 0 0
      (fun t => t.reg 0 == 2 && t.reg 1 == 5 && t.reg 2 == 4 && t.reg 3 == 9 && t.index == 0x303) = true := by decide +kernel

/-- M6c, M6d. -/
theorem test_loadRegs_edge :
    runWord (poke (State.reset.setIndex 0xFFF) 0xFFF [0x77]) 0xF065 0 0 (fun t => t.reg 0 == 0x77 && t.index == 0x1000) = true ∧
      runWord ((regs [(0, 5)]).setIndex 0x1000) 0xF065 0 0 (fun t => t.reg 0 == 5 && t.index == 0x1000 &&
        t.fault == some { cause := 1, pc := 0x200, word := some 0xF065, addr := some 0x1000 }) = true := by decide +kernel

/-! ### Display -/

/-- D12. -/
theorem test_cls :
    runWord (light (regs [(15, 1)]) [(0, 0), (63, 31)]) 0x00E0 0 0
      (fun t => litOf t [(0, 0), (63, 31), (5, 5)] == [] && t.reg 15 == 1) = true := by decide +kernel

/-- D6: bit 7 leftmost. -/
theorem test_drw_bits :
    runWord (poke ((regs [(0, 10), (1, 5)]).setIndex 0x300) 0x300 [0x80]) 0xD011 0 0
      (fun t => litOf t [(9, 5), (10, 5), (11, 5), (17, 5), (10, 4), (10, 6), (5, 10)] == [(10, 5)]) = true ∧
      runWord (poke ((regs [(0, 10), (1, 5)]).setIndex 0x300) 0x300 [0x01]) 0xD011 0 0
        (fun t => litOf t [(10, 5), (16, 5), (17, 5), (18, 5)] == [(17, 5)]) = true := by decide +kernel

/-- D8b. -/
theorem test_drw_rows :
    runWord (poke ((regs [(15, 7)]).setIndex 0xFFE) 0xFFE [0xC0, 0x03]) 0xD012 0 0
      (fun t => litOf t [(0, 0), (1, 0), (2, 0), (0, 1), (5, 1), (6, 1), (7, 1)] == [(0, 0), (1, 0), (6, 1), (7, 1)] &&
        t.reg 15 == 0) = true := by decide +kernel

/-- D11b. -/
theorem test_drw_clip :
    runWord (light (poke ((regs [(0, 62)]).setIndex 0x300) 0x300 [0xFF]) [(63, 0)]) 0xD011 0 0
      (fun t => litOf t [(61, 0), (62, 0), (63, 0), (0, 0), (0, 1)] == [(62, 0)] && t.reg 15 == 1) = true := by decide +kernel

/-! ### Keypad, timers, events -/

/-- K1a, K1b. -/
theorem test_skp :
    runWord ((regs [(1, 5)]).setPc 0x220) 0xE19E 0x0020 0 (fun t => t.pc == 0x224) = true ∧
      runWord (regs [(1, 0x15)]) 0xE19E 0xFFFF 0 (fun t => t.pc == 0x202) = true := by decide +kernel

/-- K2a, K2b. -/
theorem test_sknp :
    runWord ((regs [(1, 5)]).setPc 0x220) 0xE1A1 0x0020 0 (fun t => t.pc == 0x222) = true ∧
      runWord (regs [(1, 0x15)]) 0xE1A1 0xFFFF 0 (fun t => t.pc == 0x204) = true := by decide +kernel

/-- K3a, its first and its third cycle; K3c. -/
theorem test_waitKey :
    runWord (regs [(2, 9)]) 0xF20A 0x0001 0 (fun t => t.kw && t.kprev == 1 && t.pc == 0x200 && t.reg 2 == 9) = true ∧
      runWord (State.reset.setKeyWait true 0x0001) 0xF20A 0x0081 0 (fun t => !t.kw && t.reg 2 == 7 && t.pc == 0x202) = true ∧
      runWord (State.reset.setKeyWait true 0) 0xF20A 0x0410 0 (fun t => t.reg 2 == 4) = true := by decide +kernel

/-- K4. -/
theorem test_getDelay :
    runWord (State.reset.setDt 0x3C) 0xF107 0 0 (fun t => t.reg 1 == 0x3C && t.dt == 0x3C) = true := by decide +kernel

/-- K5. -/
theorem test_setTimers :
    runWord (regs [(0, 10)]) 0xF015 0 0 (fun t => t.dt == 10 && t.st == 0) = true ∧
      runWord (regs [(0, 10)]) 0xF018 0 0 (fun t => t.st == 10 && t.dt == 0) = true := by decide +kernel

/-- T1, T2. -/
theorem test_tick :
    runEvent (State.reset.setDt 2) .tick (fun t => t.dt == 1 && t.st == 0) = true ∧
      runEvent ((State.reset.setDt 255).setSt 1) .tick (fun t => t.dt == 254 && t.st == 0) = true := by decide +kernel

/-- X1. -/
theorem test_fetch_fault :
    runEvent (State.reset.setPc 0xFFF) (.cycle 0 0) (fun t => t.pc == 0xFFF &&
      t.fault == some { cause := 1, pc := 0xFFF, word := none, addr := some 0x1000 }) = true := by decide +kernel

/-- V-DECODE's last line, and X4. -/
theorem test_cycle :
    runEvent State.reset (.cycle 0 0) (fun t => t.pc == 0x200 &&
      t.fault == some { cause := 2, pc := 0x200, word := some 0, addr := none }) = true ∧
      runWord (State.reset.setPc 0x201) 0x6A2F 0 0 (fun t => t.reg 10 == 0x2F && t.pc == 0x203) = true := by decide +kernel

/-- R76, R78: the bytes go to 0x200 on; a running core takes no load. -/
theorem test_load :
    runEvent State.reset (.loadProgram [0x5A, 0x5B])
      (fun t => t.byteAt 0x1FF == 0 && t.byteAt 0x200 == 0x5A && t.byteAt 0x201 == 0x5B && t.byteAt 0x202 == 0 &&
        t.env.loadResult == some .loaded) = true ∧
      runEvent (State.reset.sampleInputs 0 0) (.loadProgram [0x5A]) (fun _ => true) = false := by decide +kernel

/-- X8, the image one byte too long. -/
theorem test_load_too_large :
    runEvent State.reset (.loadProgram (List.replicate 3585 0x5A))
      (fun t => t.mem == [] && t.fault == none && t.env.loadResult == some .romTooLarge) = true := by decide +kernel

/-- X6. -/
theorem test_resetCore :
    runEvent ((light (regs [(3, 9)]) [(0, 0)]).setDt 5 |>.takeFault .stackUnderflow (some 0x00EE)) (.resetCore 0)
      (fun t => t.reg 3 == 0 && t.pc == 0x200 && t.fault == none && t.dt == 5 && t.pixel 0 0) = true := by decide +kernel

/-- A write keeps the canonical form: writing what an unlisted address reads as removes the entry (R67; log entry 7). -/
theorem test_memory_canonical :
    (Memory.write (Memory.write [] 5 1) 3 2 = [(3, 2), (5, 1)]) ∧ (Memory.write [(3, 2), (5, 1)] 3 0 = [(5, 1)]) := by decide

/-! ### Witnesses: states and operands that meet the hypotheses of the statements, a clause's at the boundary of its range -/

/-- The state after reset with `I` set. -/
def atI (a : Addr) : State := State.reset.setIndex a

/-- A stopped core. -/
def stopped : State := State.reset.takeFault .stackUnderflow (some 0x00EE)

/-- The same core, stopped by a cycle it took. -/
def ranAndStopped : State := (State.reset.sampleInputs 0 0).takeFault .stackUnderflow (some 0x00EE)

/-- A core that waits in F20A at 0x200, with key 3 down at the last poll. -/
def waiting : State := (State.setKeyWait (poke State.reset 0x200 [0xF2, 0x0A]) true 0x0008).sampleInputs 0 0

/-- DecodeAfterEncode; EncodeAfterDecode; DecodeFollowsOpcodeMap. -/
theorem test_witness_encoding :
    (Instr.jp 0xFFF).wellFormed = true ∧ (Instr.drw 15 15 15).wellFormed = true ∧
      decodeWord 0xDFFF = some (.drw 15 15 15) ∧ (⟨"FX65", 0xF0FF, 0xF065⟩ : Row) ∈ opcodeMap ∧
      (⟨"FX65", 0xF0FF, 0xF065⟩ : Row).isMatch 0xFF65 = true := by decide

/-- StepRunsDecodedInstruction, at the last address a fetch can use: both clauses. -/
theorem test_witness_step :
    (poke (State.reset.setPc 4094) 4094 [0x12, 0x00]).fault = none ∧ (4094#16).toNat ≤ 4094 ∧
      decode [(poke (State.reset.setPc 4094) 4094 [0x12, 0x00]).byteAt 4094,
        (poke (State.reset.setPc 4094) 4094 [0x12, 0x00]).byteAt 4095] = .ok (.jp 0x200, []) ∧
      (poke (State.reset.setPc 4094) 4094 [0x12, 0x00]).env.events = [] ∧
      (withEvents State.reset [.cycle 0xFFFF 0xFF, .tick]).env.events = .cycle 0xFFFF 0xFF :: [.tick] := ⟨rfl, by decide, rfl, rfl, rfl⟩

/-- UnrecognizedWordFaults. -/
theorem test_witness_unrecognized :
    State.reset.fault = none ∧ State.reset.fetch = .ok 0x0000#16 ∧ decodeWord 0x0000 = none := ⟨rfl, rfl, rfl⟩

/-- FetchOutOfBoundsFaults, at both ends. -/
theorem test_witness_fetch_fault :
    (State.reset.setPc 4095).fault = none ∧ 4095 ≤ (State.reset.setPc 4095).pc.toNat ∧
      4095 ≤ (State.reset.setPc 0xFFFF).pc.toNat := by decide

/-- StoppedCoreOnlyTicks, TickCountsDown. -/
theorem test_witness_stopped :
    (withEvents stopped [.cycle 1 2]).fault = some { cause := 4, pc := 0x200, word := some 0x00EE, addr := none } ∧
      (withEvents stopped [.cycle 1 2]).env.events = .cycle 1 2 :: [] ∧
      (withEvents stopped [.tick, .tick]).env.events = .tick :: [.tick] := ⟨rfl, rfl, rfl⟩

/-- ResetCoreRestarts; ResetAllConstructs. -/
theorem test_witness_resets :
    (withEvents stopped [.resetCore 7]).env.events = .resetCore 7 :: [] ∧ (List.replicate 4096 (0xAA : Byte)).length = 4096 ∧
      (withEvents stopped [.resetAll (List.replicate 4096 0xAA) (Vector.replicate 16 3) 7]).env.events =
        .resetAll (List.replicate 4096 0xAA) (Vector.replicate 16 3) 7 :: [] := ⟨rfl, List.length_replicate, rfl⟩

/-- ProgramLoadCopiesOrRefuses, both clauses at the limit; FontLoadCopies. -/
theorem test_witness_loads (n : Nat) :
    (withEvents State.reset [.loadProgram (List.replicate n 1)]).env.fresh = true ∧
      (withEvents State.reset [.loadProgram (List.replicate n 1)]).env.events = .loadProgram (List.replicate n 1) :: [] ∧
      (List.replicate 3584 (1 : Byte)).length ≤ 3584 ∧ 3584 < (List.replicate 3585 (1 : Byte)).length ∧
      (withEvents State.reset [.loadFont (Vector.replicate 80 1)]).env.events = .loadFont (Vector.replicate 80 1) :: [] :=
  ⟨rfl, rfl, by rw [List.length_replicate], by rw [List.length_replicate]; decide, rfl⟩

/-- LoadWhileRunningRefused, both clauses. -/
theorem test_witness_load_running :
    (withEvents waiting [.loadFont (Vector.replicate 80 1)]).env.fresh = false ∧
      (withEvents waiting [.loadFont (Vector.replicate 80 1)]).env.events = .loadFont (Vector.replicate 80 1) :: [] ∧
      (withEvents waiting [.loadProgram [1]]).env.events = .loadProgram [1] :: [] := ⟨rfl, rfl, rfl⟩

/-- MemReadRule, MemWriteRule: each clause where it meets the next. -/
theorem test_witness_memory : 4095 ≤ 4095 ∧ 4096 ≤ 4096 ∧ 4094 + 1 ≤ 4095 ∧ 4095 < 4095 + 1 := by decide

/-- CallResult, CallOverflowFaults, ReturnResult, CallThenReturnContinues: the least and the most entries in use, and none. -/
theorem test_witness_stack :
    (withStack State.reset 0 2).sp.val < 16 ∧ (withStack State.reset 15 2).sp.val < 16 ∧ (withStack State.reset 16 2).sp.val = 16 ∧
      (withStack State.reset 1 2).sp.val = (0 : Fin 16).val + 1 ∧ (withStack State.reset 16 2).sp.val = (15 : Fin 16).val + 1 ∧
      State.reset.sp.val = 0 := by decide

/-- BcdResult, StoreRegsResult, LoadRegsResult, StoreThenLoadRoundTrip, DrawResult, DrawTwiceRestores: the highest run that fits,
and no run at all. -/
theorem test_witness_runs :
    RunFits (atI 4093) 3 ∧ RunFits (atI 4080) ((15 : Reg).val + 1) ∧ RunFits (atI 4095) ((0 : Reg).val + 1) ∧
      RunFits (atI 4081) 15 ∧ RunFits (atI 0xFFFF) 0 :=
  ⟨.inr (by decide), .inr (by decide), .inr (by decide), .inr (by decide), .inl rfl⟩

/-- DataOutOfBoundsFaults: each clause at the lowest base that does not fit. -/
theorem test_witness_runs_fault :
    4096 < (atI 4094).base + 3 ∧ 4096 < (atI 4081).base + ((15 : Reg).val + 1) ∧ 4096 < (atI 4096).base + ((0 : Reg).val + 1) ∧
      (0 < 15 ∧ 4096 < (atI 4082).base + 15) := by decide

/-- StoreSeenByNextFetch. -/
theorem test_witness_store_code :
    1 ≤ (1 : Reg).val ∧ RunFits (atI 0x202) ((1 : Reg).val + 1) ∧ (atI 0x202).base = (atI 0x202).pc.toNat + 2 :=
  ⟨by decide, .inr (by decide), rfl⟩

/-- A sprite row FF at the right edge, over a lit pixel. -/
def drawing : State := light (poke ((regs [(0, 62)]).setIndex 0x300) 0x300 [0xFF]) [(63, 0)]

/-- DrawResult: the collision clause. -/
theorem test_witness_collision :
    RunFits drawing 1 ∧ ∃ px py, drawing.pixel px py = true ∧ spriteAt drawing 0 1 1 px py = true :=
  ⟨.inr (by decide), 63, 0, by decide +kernel, by decide +kernel⟩

/-- DrawResult: the clause of no collision; DrawTwiceRestores: its clause of a dark grid, with registers that are not `VF`. -/
theorem test_witness_dark :
    RunFits State.reset 5 ∧ (0 : Reg) ≠ 15 ∧ (∀ px py, State.reset.pixel px py = false) ∧
      ∀ px py, State.reset.pixel px py = true → spriteAt State.reset 0 1 5 px py = false := by
  have h : ∀ px py, State.reset.pixel px py = false := fun px py => by simp [State.pixel, State.reset]
  exact ⟨.inr (by decide), by decide, h, fun px py hp => by rw [h] at hp; cases hp⟩

/-- WaitKeyResult: the three clauses, the last for the highest key. -/
theorem test_witness_waitKey :
    State.reset.kw = false ∧ waiting.kw = true ∧
      (∀ j < 16, (waiting.sampleInputs 0x0008 0).env.keys.getLsbD j = true → waiting.kprev.getLsbD j = true) ∧
      (waiting.sampleInputs 0x8008 0).env.keys.getLsbD 15 = true ∧ waiting.kprev.getLsbD 15 = false ∧
      (∀ k < 15, (waiting.sampleInputs 0x8008 0).env.keys.getLsbD k = true → waiting.kprev.getLsbD k = true) := by
  decide +kernel

/-- ExecWritesOnlyNamedState; KeysReadOnlyByKeypadInstructions; SoundTimerNeverRead, both clauses. -/
theorem test_witness_exec :
    exec (.ldI 0x300) State.reset = .next (atI 0x300).advance ∧ writesReg (.ldI 0x300) 15 = false ∧
      (∀ x, Instr.ldI 0x300 ≠ .skp x ∧ Instr.ldI 0x300 ≠ .sknp x ∧ Instr.ldI 0x300 ≠ .waitKey x) ∧
      (∀ x, Instr.ldI 0x300 ≠ .setSound x) ∧ exec (.setSound 1) State.reset = .next State.reset.advance ∧
      (∃ x, Instr.setSound 1 = .setSound x) := ⟨rfl, rfl, by decide, by decide, rfl, 1, rfl⟩

/-- ExecFaultsArePrecise. -/
theorem test_witness_exec_fault : exec .ret State.reset = .next stopped ∧ stopped.fault ≠ State.reset.fault :=
  ⟨rfl, by decide⟩

/-- FaultStaysUntilReset, with a tick queued and with no event queued, where the step is a free cycle. -/
theorem test_witness_fault_stays :
    StoppedCoreIsNotFresh (withEvents ranAndStopped [.tick]) ∧
      ranAndStopped.fault = some { cause := 4, pc := 0x200, word := some 0x00EE, addr := none } ∧
      step (withEvents ranAndStopped [.tick]) = .next ((withEvents ranAndStopped [.tick]).dropEvent []).tick ∧
      step ranAndStopped = .next (ranAndStopped.elapse (Config.tickCount 0)).nextTime ∧
      (∀ k rest, (withEvents ranAndStopped [.tick]).env.events ≠ .resetCore k :: rest) ∧
      ∀ m c k rest, (withEvents ranAndStopped [.tick]).env.events ≠ .resetAll m c k :: rest := by
  refine ⟨fun _ => rfl, rfl, rfl, rfl, ?_, ?_⟩ <;> intros <;> simp [withEvents]

/-- StoppedCoreStaysNotFresh: a stopped core. -/
theorem test_witness_not_fresh :
    StoppedCoreIsNotFresh ranAndStopped ∧ ranAndStopped.fault ≠ none ∧
      step ranAndStopped = .next (ranAndStopped.elapse (Config.tickCount 0)).nextTime := ⟨fun _ => rfl, by decide, rfl⟩

/-- MemoryStaysCanonical: memory that lists bytes. -/
theorem test_witness_memory_canonical :
    MemoryCanonical (withEvents waiting [.tick]) ∧
      step (withEvents waiting [.tick]) = .next ((withEvents waiting [.tick]).dropEvent []).tick := ⟨rfl, rfl⟩

/-- PcAndStackStayInRange: both bounds reached. -/
theorem test_witness_range :
    PcAndStackInRange ((withStack (withEvents State.reset [.tick]) 16 4096).setPc 4350) ∧
      step ((withStack (withEvents State.reset [.tick]) 16 4096).setPc 4350) =
        .next ((((withStack (withEvents State.reset [.tick]) 16 4096).setPc 4350).dropEvent []).tick) :=
  ⟨⟨by decide, fun j h _ => by simp [withStack, State.setPc]⟩, rfl⟩

/-- KeyWaitStaysAtFx0A: a core that waits, and goes on waiting. -/
theorem test_witness_key_wait :
    KeyWaitAtFx0A (withEvents waiting [.tick]) ∧ (withEvents waiting [.tick]).kw = true ∧
      step (withEvents waiting [.tick]) = .next ((withEvents waiting [.tick]).dropEvent []).tick :=
  ⟨fun _ => ⟨rfl, rfl, 0xF20A, 2, rfl, rfl⟩, rfl, rfl⟩

/-- FaultRecordStaysSound: a stopped core. -/
theorem test_witness_fault_sound :
    FaultRecordSound (withEvents stopped [.tick]) ∧ stopped.fault ≠ none ∧
      step (withEvents stopped [.tick]) = .next ((withEvents stopped [.tick]).dropEvent []).tick :=
  ⟨fun r h => by cases h; exact ⟨.inr (.inr (.inr ⟨rfl, rfl, rfl⟩)), rfl⟩, by decide, rfl⟩

end Sys2Proof.Tests
end

section
/-! What one instruction can answer: a next state with the fault record as it was, or, for the six instructions that can fault
(R250), the fault taken from the state it began in (R126, R257). -/

namespace Sys2Proof.Machine

/-- `exec i s` goes to a next state with the same fault record. -/
def ExecKeepsFault (i : Instr) (s : State) : Prop := ∃ t, exec i s = .next t ∧ t.fault = s.fault

/-- `exec i s` takes a fault, and `i` is one of the instructions with `FAULT` in `writes`. -/
def ExecTakesFault (i : Instr) (s : State) : Prop :=
  Part.fault ∈ writes i ∧ ∃ f, exec i s = .next (s.takeFault f (some (encode i)))

/-- The outcome of every instruction. The instructions with two ends are split by their inversion lemma; each of the others has one
end, which updates parts other than the record. -/
theorem exec_keepsFault_or_takesFault (i : Instr) (s : State) : ExecKeepsFault i s ∨ ExecTakesFault i s := by
  cases i with
  | ret =>
    obtain ⟨-, h⟩ | ⟨_, _, -, h⟩ := execRet_cases s
    · exact .inr ⟨by simp [writes], _, h⟩
    · exact .inl ⟨_, h, rfl⟩
  | call nnn =>
    obtain ⟨_, h⟩ | ⟨-, h⟩ := execCall_cases nnn s
    · exact .inl ⟨_, h, rfl⟩
    · exact .inr ⟨by simp [writes], _, h⟩
  | drw x y n =>
    obtain ⟨-, h⟩ | ⟨-, -, h⟩ := execDrw_cases x y n s
    · exact .inl ⟨_, h, by simp⟩
    · exact .inr ⟨by simp [writes], _, h⟩
  | bcd x =>
    obtain ⟨-, h⟩ | ⟨-, h⟩ := execBcd_cases x s
    · exact .inl ⟨_, h, by simp⟩
    · exact .inr ⟨by simp [writes], _, h⟩
  | storeRegs x =>
    obtain ⟨-, h⟩ | ⟨-, h⟩ := execStoreRegs_cases x s
    · exact .inl ⟨_, h, by simp⟩
    · exact .inr ⟨by simp [writes], _, h⟩
  | loadRegs x =>
    obtain ⟨-, h⟩ | ⟨-, h⟩ := execLoadRegs_cases x s
    · exact .inl ⟨_, h, by simp⟩
    · exact .inr ⟨by simp [writes], _, h⟩
  | waitKey x =>
    obtain h | ⟨-, _, -, h⟩ := execWaitKey_cases x s
    · exact .inl ⟨_, h, by simp⟩
    · exact .inl ⟨_, h, by simp⟩
  | _ => exact .inl ⟨_, rfl, rfl⟩

/-- Settles O45, from the outcome of every instruction: only the second alternative can change the record. -/
theorem execAlwaysAnswersNext : Obligations.ExecAlwaysAnswersNext := by
  intro i s
  obtain ⟨t, ht, hkeep⟩ | ⟨hwrites, f, hf⟩ := exec_keepsFault_or_takesFault i s
  · exact ⟨t, ht, fun hne => absurd hkeep hne⟩
  · exact ⟨_, hf, fun _ => hwrites⟩

end Sys2Proof.Machine
end

section
/-! The frame of R125 update by update: an update of a listed part keeps `SameBut`. That the part is listed is found in the list
itself, or in `writes`, unless it is given. -/

namespace Sys2Proof.Machine

variable {parts : List Part} {s t : State}

theorem SameBut.refl (parts : List Part) (s : State) : SameBut parts s s :=
  ⟨fun _ _ => rfl, fun _ => rfl, fun _ => rfl, fun _ => ⟨rfl, rfl⟩, fun _ _ => rfl, fun _ _ _ => rfl, fun _ => rfl, fun _ => rfl,
    fun _ => ⟨rfl, rfl⟩, fun _ => rfl, fun _ => rfl⟩

theorem SameBut.setReg {x : Reg} {b : Byte} (h : SameBut parts s t) (hp : .regs ∈ parts := by simp [writes]) :
    SameBut parts s (t.setReg x b) :=
  { h with regs := absurd hp }

theorem SameBut.setFlag {b : Byte} (h : SameBut parts s t) (hp : .regs ∈ parts := by simp [writes]) :
    SameBut parts s (t.setFlag b) :=
  h.setReg hp

theorem SameBut.setRegRun {k : Nat} {bs : List Byte} (h : SameBut parts s t) (hp : .regs ∈ parts := by simp [writes]) :
    SameBut parts s (t.setRegRun k bs) := by
  obtain ⟨v, hv⟩ := t.setRegRun_rest k bs
  rw [hv]
  exact { h with regs := absurd hp }

theorem SameBut.setIndex {a : Addr} (h : SameBut parts s t) (hp : .index ∈ parts := by simp [writes]) :
    SameBut parts s (t.setIndex a) :=
  { h with index := absurd hp }

theorem SameBut.setPc {a : Addr} (h : SameBut parts s t) (hp : .pc ∈ parts := by simp [writes]) : SameBut parts s (t.setPc a) :=
  { h with pc := absurd hp }

theorem SameBut.advance (h : SameBut parts s t) (hp : .pc ∈ parts := by simp [writes]) : SameBut parts s t.advance :=
  h.setPc hp

theorem SameBut.skipIf {c : Bool} (h : SameBut parts s t) (hp : .pc ∈ parts := by simp [writes]) :
    SameBut parts s (t.skipIf c) :=
  h.setPc hp

theorem SameBut.setStack {sp : Fin (Config.stackDepth + 1)} {stk : Vector Addr Config.stackDepth} (h : SameBut parts s t)
    (hp : .stack ∈ parts := by simp [writes]) : SameBut parts s { t with sp := sp, stk := stk } :=
  { h with stack := absurd hp }

theorem SameBut.setMem {m : Memory} (h : SameBut parts s t) (hp : .mem ∈ parts := by simp [writes]) :
    SameBut parts s (t.setMem m) :=
  { h with mem := absurd hp }

theorem SameBut.setGrid {g : Grid} (h : SameBut parts s t) (hp : .fb ∈ parts := by simp [writes]) :
    SameBut parts s (t.setGrid g) :=
  { h with fb := absurd hp }

theorem SameBut.setDt {b : Byte} (h : SameBut parts s t) (hp : .dt ∈ parts := by simp [writes]) : SameBut parts s (t.setDt b) :=
  { h with dt := absurd hp }

theorem SameBut.setSt {b : Byte} (h : SameBut parts s t) (hp : .st ∈ parts := by simp [writes]) : SameBut parts s (t.setSt b) :=
  { h with st := absurd hp }

theorem SameBut.setKeyWait {w : Bool} {k : Word} (h : SameBut parts s t) (hp : .keyWait ∈ parts := by simp [writes]) :
    SameBut parts s (t.setKeyWait w k) :=
  { h with keyWait := absurd hp }

theorem SameBut.takeFault {f : Fault} {w : Option Word} (h : SameBut parts s t) (hp : .fault ∈ parts := by simp [writes]) :
    SameBut parts s (t.takeFault f w) :=
  { h with fault := absurd hp }

theorem SameBut.setEnv {e : Env} (h : SameBut parts s t) (hp : .env ∈ parts := by simp [writes]) : SameBut parts s (t.setEnv e) :=
  { h with env := absurd hp }

theorem SameBut.tick (h : SameBut parts s t) (hd : .dt ∈ parts := by simp) (hs : .st ∈ parts := by simp) :
    SameBut parts s t.tick :=
  { h with dt := absurd hd, st := absurd hs }

theorem SameBut.elapse {n : Nat} (h : SameBut parts s t) (hd : .dt ∈ parts := by simp) (hs : .st ∈ parts := by simp) :
    SameBut parts s (t.elapse n) :=
  { h with dt := absurd hd, st := absurd hs }

end Sys2Proof.Machine
end

section
/-! What every instruction leaves unchanged (R37, R125). -/

namespace Sys2Proof.Machine

/-- The frame of every instruction is the list `writes` of its parts (R37), whichever of its ends it takes. -/
theorem exec_sameBut_writes (i : Instr) (s t : State) (h : exec i s = .next t) : SameBut (writes i) s t := by
  have same := SameBut.refl (writes i) s
  cases i with
  | ret =>
    obtain ⟨-, e⟩ | ⟨_, _, -, e⟩ := execRet_cases s <;> cases e.symm.trans h
    · exact same.takeFault
    · exact same.setStack.setPc
  | call nnn =>
    obtain ⟨_, e⟩ | ⟨-, e⟩ := execCall_cases nnn s <;> cases e.symm.trans h
    · exact same.setStack.setPc
    · exact same.takeFault
  | drw x y n =>
    obtain ⟨-, e⟩ | ⟨-, -, e⟩ := execDrw_cases x y n s <;> cases e.symm.trans h
    · exact same.setGrid.setFlag.advance
    · exact same.takeFault
  | bcd x =>
    obtain ⟨-, e⟩ | ⟨-, e⟩ := execBcd_cases x s <;> cases e.symm.trans h
    · exact same.setMem.advance
    · exact same.takeFault
  | storeRegs x =>
    obtain ⟨-, e⟩ | ⟨-, e⟩ := execStoreRegs_cases x s <;> cases e.symm.trans h
    · exact same.setMem.advance
    · exact same.takeFault
  | loadRegs x =>
    obtain ⟨-, e⟩ | ⟨-, e⟩ := execLoadRegs_cases x s <;> cases e.symm.trans h
    · exact same.setRegRun.setIndex.advance
    · exact same.takeFault
  | waitKey x =>
    obtain e | ⟨-, _, -, e⟩ := execWaitKey_cases x s <;> cases e.symm.trans h
    · exact same.setKeyWait
    · exact same.setReg.setKeyWait.advance
  | cls => cases h; exact same.setGrid.advance
  | jp nnn | jpV0 nnn => cases h; exact same.setPc
  | seByte x y | sneByte x y | seReg x y | sneReg x y => cases h; exact same.skipIf
  | skp x | sknp x => cases h; exact same.skipIf
  | ldByte x y | addByte x y | ldReg x y | orReg x y | andReg x y | xorReg x y | rnd x y => cases h; exact same.setReg.advance
  | getDelay x => cases h; exact same.setReg.advance
  | addReg x y | subReg x y | subnReg x y => cases h; exact same.setReg.setFlag.advance
  | shr x y | shl x y => cases h; exact same.setFlag.setReg.advance
  | ldI x | addI x | ldFont x => cases h; exact same.setIndex.advance
  | setDelay x => cases h; exact same.setDt.advance
  | setSound x => cases h; exact same.setSt.advance

/-- A register an instruction does not name keeps its value. Where no register is written the frame says so; the others are read off
their ends. -/
theorem exec_reg_of_not_writesReg (i : Instr) (s t : State) (h : exec i s = .next t) (r : Reg) (hr : writesReg i r = false) :
    t.reg r = s.reg r := by
  by_cases hregs : .regs ∈ writes i
  · cases i with
    | drw x y n =>
      have hflag : r ≠ flagReg := by simpa [writesReg, flagReg] using hr
      obtain ⟨-, e⟩ | ⟨-, -, e⟩ := execDrw_cases x y n s <;> cases e.symm.trans h
      · simp [hflag]
      · rfl
    | loadRegs x =>
      have hlt : ¬ r.val < x.val + 1 := by simpa [writesReg] using hr
      obtain ⟨-, e⟩ | ⟨-, e⟩ := execLoadRegs_cases x s <;> cases e.symm.trans h
      · simp [State.setRegRun_reg, hlt]
      · rfl
    | waitKey x =>
      have hx : r ≠ x := by simpa [writesReg] using hr
      obtain e | ⟨-, _, -, e⟩ := execWaitKey_cases x s <;> cases e.symm.trans h
      · rfl
      · simp [hx]
    | ldByte x y | addByte x y | ldReg x y | orReg x y | andReg x y | xorReg x y | rnd x y =>
      have hx : r ≠ x := by simpa [writesReg] using hr
      cases h
      simp [hx]
    | getDelay x =>
      have hx : r ≠ x := by simpa [writesReg] using hr
      cases h
      simp [hx]
    | addReg x y | subReg x y | subnReg x y | shr x y | shl x y =>
      obtain ⟨hx, hflag⟩ : r ≠ x ∧ r ≠ flagReg := by simpa [writesReg, flagReg] using hr
      cases h
      simp [hx, hflag]
    | _ => simp [writes] at hregs
  · exact (exec_sameBut_writes i s t h).regs hregs r

/-- Settles O46: the frame of every instruction, and the registers it does not name. -/
theorem execWritesOnlyNamedState : Obligations.ExecWritesOnlyNamedState :=
  fun i s t h => ⟨exec_sameBut_writes i s t h, exec_reg_of_not_writesReg i s t h⟩

end Sys2Proof.Machine
end

section
/-! An invariant of the machine, packaged once: a predicate that every event keeps is kept by `step` (R5, R127). -/

namespace Sys2Proof.Machine

/-- What an invariant `P` of the machine has to show: one field for each event, the `cycle` of a running core cut into its three
ends. -/
structure KeptByEvents (P : State → Prop) : Prop where
  clock : ∀ s n, P s → P (s.elapse n).nextTime
  dropEvent : ∀ s es, P s → P (s.dropEvent es)
  tick : ∀ s, P s → P s.tick
  resetCore : ∀ s k, P s → P (s.resetCore k)
  resetAll : ∀ s m c k, P s → P (s.resetAll m c k)
  load : ∀ s m l, s.env.fresh = true → (m = s.mem ∨ ∃ a bs, m = s.mem.copyIn a bs) → P s → P ((s.setMem m).answerLoad l)
  fetchFault : ∀ s k b, s.fault = none → 4095 ≤ s.pc.toNat → P s →
    P ((s.sampleInputs k b).takeFault (.outOfBounds (max s.pc.toNat 4096)) none)
  unrecognized : ∀ s k b w, s.fault = none → s.fetch = .ok w → decodeWord w = none → P s →
    P ((s.sampleInputs k b).takeFault (.unrecognizedOpcode w) (some w))
  exec : ∀ s k b w i t, s.fault = none → s.pc.toNat ≤ 4094 → s.fetch = .ok w → decodeWord w = some i → P s →
    exec i (s.sampleInputs k b) = .next t → P t

/-- A cycle, by its ends; the one of a stopped core changes nothing. -/
theorem KeptByEvents.cycle {P : State → Prop} (hP : KeptByEvents P) {k : Word} {b : Byte} {s t : State} (hs : P s)
    (h : cycle k b s = .next t) : P t := by
  obtain ⟨-, e⟩ | ⟨hf, hpc, e⟩ | ⟨hf, -, w, hw, hd, e⟩ | ⟨hf, hpc, w, i, hw, hd, e⟩ := cycle_cases k b s
  · cases e.symm.trans h; exact hs
  · cases e.symm.trans h; exact hP.fetchFault s k b hf hpc hs
  · cases e.symm.trans h; exact hP.unrecognized s k b w hf hw hd hs
  · exact hP.exec s k b w i t hf hpc hw hd hs (e.symm.trans h)

/-- A step, by the event it performs; a refused load has no next state. -/
theorem KeptByEvents.step {P : State → Prop} (hP : KeptByEvents P) (s t : State) (hs : P s) (h : step s = .next t) : P t := by
  obtain ⟨n, k, b, -, e⟩ | ⟨k, b, rest, -, e⟩ | ⟨rest, -, e⟩ | ⟨k, rest, -, e⟩ | ⟨m, c, k, rest, -, e⟩ |
    ⟨m, l, rest, hfresh, -, hm, e⟩ | e := step_cases s
  · exact hP.cycle (hP.clock s n hs) (e.symm.trans h)
  · exact hP.cycle (hP.dropEvent s rest hs) (e.symm.trans h)
  · cases e.symm.trans h; exact hP.tick _ (hP.dropEvent s rest hs)
  · cases e.symm.trans h; exact hP.resetCore _ k (hP.dropEvent s rest hs)
  · cases e.symm.trans h; exact hP.resetAll _ m c k (hP.dropEvent s rest hs)
  · cases e.symm.trans h; exact hP.load _ m l hfresh hm (hP.dropEvent s rest hs)
  · cases e.symm.trans h

end Sys2Proof.Machine
end

section
/-! `PC` and the return addresses in use stay in range (R27, R140). A decoded address is below 4096, so BNNN reaches at most 4095 + 255,
and a cycle that fetches a word has `PC <= 4094`, so a call pushes at most 4096. -/

namespace Sys2Proof

theorem fitsNNN_fieldNNN (w : Word) : fitsNNN (fieldNNN w) = true := by
  simp only [fitsNNN, fieldNNN_toNat, decide_eq_true_eq]
  omega

theorem fitsN_fieldN (w : Word) : fitsN (fieldN w) = true := by
  simp only [fitsN, fieldN_eq, decide_eq_true_eq]
  omega

theorem decodeFamily8_wellFormed (w : Word) : (decodeFamily8 w).all Instr.wellFormed = true := by
  unfold decodeFamily8; split <;> rfl

theorem decodeFamilyE_wellFormed (w : Word) : (decodeFamilyE w).all Instr.wellFormed = true := by
  unfold decodeFamilyE; split <;> rfl

theorem decodeFamilyF_wellFormed (w : Word) : (decodeFamilyF w).all Instr.wellFormed = true := by
  unfold decodeFamilyF; split <;> rfl

/-- The decoder gives well-formed instructions only: the fields of a word fit (R92). -/
theorem decodeWord_wellFormed (w : Word) (i : Instr) (h : decodeWord w = some i) : i.wellFormed = true := by
  have hall : (decodeWord w).all Instr.wellFormed = true := by
    unfold decodeWord
    split <;> simp [apply_ite (Option.all Instr.wellFormed), Instr.wellFormed, fitsNNN_fieldNNN, fitsN_fieldN,
      decodeFamily8_wellFormed, decodeFamilyE_wellFormed, decodeFamilyF_wellFormed]
  simpa [h] using hall

end Sys2Proof

namespace Sys2Proof.Machine

theorem zext16_toNat (b : Byte) : (zext16 b).toNat = b.toNat := by
  have := b.isLt
  simp only [zext16, BitVec.toNat_ofNat]
  omega

theorem State.skipIf_pc_le (s : State) (c : Bool) (h : s.pc.toNat ≤ 4094) : (s.skipIf c).pc.toNat ≤ 4350 := by
  cases c <;> simp <;> omega

theorem State.advance_pc_le (s : State) (h : s.pc.toNat ≤ 4094) : s.advance.pc.toNat ≤ 4350 := by
  simp; omega

/-- With the stack unchanged only the bound of `PC` is left to show. -/
theorem PcAndStackInRange.of_stack_eq {s t : State} (hs : PcAndStackInRange s) (hstack : t.sp = s.sp ∧ t.stk = s.stk)
    (hpc : t.pc.toNat ≤ 4350) : PcAndStackInRange t := by
  obtain ⟨hsp, hstk⟩ := hstack
  refine ⟨hpc, fun j hj hlt => ?_⟩
  simp only [hstk]
  exact hs.2 j hj (hsp ▸ hlt)

/-- The instructions that leave the call stack alone take a fetched `PC` at most to 4350, which BNNN can reach. -/
theorem exec_pc_le (i : Instr) (s t : State) (hwf : i.wellFormed = true) (hpc : s.pc.toNat ≤ 4094) (hi : .stack ∉ writes i)
    (h : exec i s = .next t) : t.pc.toNat ≤ 4350 := by
  cases i with
  | ret | call nnn => simp [writes] at hi
  | jp nnn =>
    cases h
    have : nnn.toNat < 4096 := by simpa [Instr.wellFormed, fitsNNN] using hwf
    simp; omega
  | jpV0 nnn =>
    cases h
    have : nnn.toNat < 4096 := by simpa [Instr.wellFormed, fitsNNN] using hwf
    have := (s.reg 0).isLt
    simp [State.jumpOffset, zext16_toNat]
    omega
  | seByte x y | sneByte x y | seReg x y | sneReg x y => cases h; exact s.skipIf_pc_le _ hpc
  | skp x | sknp x => cases h; exact s.skipIf_pc_le _ hpc
  | drw x y n =>
    obtain ⟨-, e⟩ | ⟨-, -, e⟩ := execDrw_cases x y n s <;> cases e.symm.trans h
    · exact State.advance_pc_le _ hpc
    · exact Nat.le_trans hpc (by decide)
  | bcd x =>
    obtain ⟨-, e⟩ | ⟨-, e⟩ := execBcd_cases x s <;> cases e.symm.trans h
    · exact State.advance_pc_le _ hpc
    · exact Nat.le_trans hpc (by decide)
  | storeRegs x =>
    obtain ⟨-, e⟩ | ⟨-, e⟩ := execStoreRegs_cases x s <;> cases e.symm.trans h
    · exact State.advance_pc_le _ hpc
    · exact Nat.le_trans hpc (by decide)
  | loadRegs x =>
    obtain ⟨-, e⟩ | ⟨-, e⟩ := execLoadRegs_cases x s <;> cases e.symm.trans h
    · exact State.advance_pc_le _ (by simpa using hpc)
    · exact Nat.le_trans hpc (by decide)
  | waitKey x =>
    obtain e | ⟨-, _, -, e⟩ := execWaitKey_cases x s <;> cases e.symm.trans h
    · exact Nat.le_trans hpc (by decide)
    · exact State.advance_pc_le _ hpc
  | _ => cases h; exact State.advance_pc_le _ hpc

/-- The return takes `PC` from an entry in use, the call puts `PC + 2` into one; the other instructions leave the stack alone. -/
theorem exec_keeps_pcAndStackInRange (i : Instr) (s t : State) (hwf : i.wellFormed = true) (hpc : s.pc.toNat ≤ 4094)
    (hs : PcAndStackInRange s) (h : exec i s = .next t) : PcAndStackInRange t := by
  cases i with
  | ret =>
    obtain ⟨hpc', hstk⟩ := hs
    obtain ⟨-, e⟩ | ⟨n, hn, hsp, e⟩ := execRet_cases s <;> cases e.symm.trans h
    · exact ⟨hpc', hstk⟩
    · exact ⟨(hstk n hn (by omega)).trans (by decide), fun j hj hlt => hstk j hj (hlt.trans (by simp; omega))⟩
  | call nnn =>
    obtain ⟨hpc', hstk⟩ := hs
    obtain ⟨_, e⟩ | ⟨-, e⟩ := execCall_cases nnn s <;> cases e.symm.trans h
    · have hn : nnn.toNat < 4096 := by simpa [Instr.wellFormed, fitsNNN] using hwf
      refine ⟨by simp; omega, fun j hj hlt => ?_⟩
      obtain rfl | hne := eq_or_ne j s.sp.val
      · simp; omega
      · simpa [Vector.getElem_set_ne, hne.symm] using hstk j hj (by simp at hlt; omega)
    · exact ⟨hpc', hstk⟩
  | _ =>
    exact hs.of_stack_eq ((exec_sameBut_writes _ s t h).stack (by simp [writes]))
      (exec_pc_le _ s t hwf hpc (by simp [writes]) h)

theorem pcAndStackInRange_keptByEvents : KeptByEvents PcAndStackInRange where
  clock _ _ hs := hs
  dropEvent _ _ hs := hs
  tick _ hs := hs
  resetCore _ _ _ := ⟨by simp, fun _ _ hlt => absurd hlt (Nat.not_lt_zero _)⟩
  resetAll _ _ _ _ _ := ⟨by simp, fun _ _ hlt => absurd hlt (Nat.not_lt_zero _)⟩
  load _ _ _ _ _ hs := hs
  fetchFault _ _ _ _ _ hs := hs
  unrecognized _ _ _ _ _ _ _ hs := hs
  exec s k b w i t _ hpc _ hd hs h :=
    exec_keeps_pcAndStackInRange i (s.sampleInputs k b) t (decodeWord_wellFormed w i hd) hpc hs h

/-- Settles O52: every event keeps the ranges; only the jumps, the call and the return set `PC` or the stack to anything new. -/
theorem pcAndStackStayInRange : Obligations.PcAndStackStayInRange := pcAndStackInRange_keptByEvents.step

end Sys2Proof.Machine
end

section
/-! While a key wait is active the word at `PC` is an FX0A of a running core (R33, R234): only FX0A begins the wait, it leaves `PC` and
memory alone while it waits, and the next cycle fetches it again. -/

namespace Sys2Proof.Machine

theorem eq_waitKey_of_keyWait_mem_writes (i : Instr) (h : .keyWait ∈ writes i) : ∃ x, i = .waitKey x := by
  cases i with
  | waitKey x => exact ⟨x, rfl⟩
  | _ => simp [writes] at h

theorem fetch_error_of_pc (s : State) (h : 4095 ≤ s.pc.toNat) : s.fetch = .error (.outOfBounds (max s.pc.toNat 4096)) :=
  memRead2_error s.mem _ h

theorem keyWaitAtFx0A_keptByEvents : KeptByEvents KeyWaitAtFx0A where
  clock _ _ hs := hs
  dropEvent _ _ hs := hs
  tick _ hs := hs
  resetCore _ _ _ hkw := nomatch hkw
  resetAll _ _ _ _ _ hkw := nomatch hkw
  load s m l hfresh _ hs hkw := by
    obtain ⟨-, hnot, -⟩ := hs hkw
    exact absurd hfresh (by simp [hnot])
  fetchFault s k b hf hpc hs hkw := by
    obtain ⟨-, -, w, x, hw, -⟩ := hs hkw
    exact nomatch (fetch_error_of_pc s hpc).symm.trans hw
  unrecognized s k b w hf hw hd hs hkw := by
    obtain ⟨-, -, w', x, hw', hd'⟩ := hs hkw
    cases hw.symm.trans hw'
    exact nomatch hd.symm.trans hd'
  exec s k b w i t hf _ hw hd hs h hkw := by
    by_cases hi : .keyWait ∈ writes i
    · obtain ⟨x, rfl⟩ := eq_waitKey_of_keyWait_mem_writes i hi
      obtain e | ⟨-, _, -, e⟩ := execWaitKey_cases x (s.sampleInputs k b) <;> cases e.symm.trans h
      · exact ⟨hf, rfl, w, x, hw, hd⟩
      · exact nomatch hkw
    · have hkw' : s.kw = true := ((exec_sameBut_writes i _ t h).keyWait hi).1 ▸ hkw
      obtain ⟨-, -, w', x, hw', hd'⟩ := hs hkw'
      cases hw.symm.trans hw'
      cases hd.symm.trans hd'
      exact absurd (by simp [writes]) hi

/-- Settles O53: every event keeps the predicate; a load is not allowed during the wait, and a cycle in it executes the FX0A. -/
theorem keyWaitStaysAtFx0A : Obligations.KeyWaitStaysAtFx0A := keyWaitAtFx0A_keptByEvents.step

end Sys2Proof.Machine
end

section
/-! No instruction reads the sound timer (R31): writing it beforehand and writing it afterwards come to the same, first for the shared
operations that look at the state, then for every instruction but FX18. -/

namespace Sys2Proof.Machine

/-- An update of the next state, where there is one. -/
def mapNext (f : State → State) : Outcome → Outcome
  | .next t => .next (f t)
  | .fault r => .fault r
  | .refused r => .refused r

theorem push_setSt (s : State) (b : Byte) (a : Addr) : push (s.setSt b) a = (push s a).map (·.setSt b) := by
  obtain ⟨h, e⟩ | ⟨h, e⟩ := push_cases s a <;> rw [e]
  · exact dif_pos h
  · exact dif_neg (Nat.not_lt_of_ge h.ge)

theorem pop_setSt (s : State) (b : Byte) : pop (s.setSt b) = (pop s).map (fun p => (p.1, p.2.setSt b)) := by
  obtain ⟨_, _, _, ⟨_ | n, _⟩, _⟩ := s <;> rfl

theorem State.setRegRun_setSt (s : State) (b : Byte) (k : Nat) (bs : List Byte) :
    (s.setSt b).setRegRun k bs = (s.setRegRun k bs).setSt b := by
  induction bs generalizing s k with
  | nil => rfl
  | cons c bs ih =>
    simp only [State.setRegRun]
    split
    · exact ih (s.setReg _ c) (k + 1)
    · exact ih s (k + 1)

theorem State.pollKey_setSt (s : State) (b : Byte) (x : Reg) : (s.setSt b).pollKey x = (s.pollKey x).setSt b := by
  simp only [State.pollKey, State.setSt_env, State.setSt_kprev]
  cases lowestKey (newlyDown s.env.keys s.kprev) <;> rfl

/-- An update of `ST` commutes with every instruction but FX18. Those that look at the state are split along what they look at. -/
theorem exec_setSt (i : Instr) (s : State) (b : Byte) (hi : ∀ x, i ≠ .setSound x) :
    exec i (s.setSt b) = mapNext (·.setSt b) (exec i s) := by
  cases i with
  | setSound x => exact absurd rfl (hi x)
  | ret =>
    simp only [exec, execRet, pop_setSt]
    cases pop s <;> rfl
  | call nnn =>
    simp only [exec, execCall, State.setSt_pc, push_setSt]
    cases push s (s.pc + BitVec.ofNat 16 Config.callLinkOffset) <;> rfl
  | drw x y n =>
    simp only [exec, execDrw, State.setSt_base, State.setSt_mem]
    cases checkRun s.base n with
    | error f => rfl
    | ok u => cases loadRun s.mem s.base n <;> rfl
  | bcd x =>
    simp only [exec, execBcd, State.setSt_base, State.setSt_mem, State.setSt_reg]
    cases checkRun s.base 3 with
    | error f => rfl
    | ok u => cases storeRun s.mem s.base (bcdDigits (s.reg x)) <;> rfl
  | storeRegs x =>
    have hv : (s.setSt b).regRun x = s.regRun x := rfl
    simp only [exec, execStoreRegs, State.setSt_base, State.setSt_mem, hv]
    cases checkRun s.base (x.val + 1) with
    | error f => rfl
    | ok u => cases storeRun s.mem s.base (s.regRun x) <;> rfl
  | loadRegs x =>
    simp only [exec, execLoadRegs, State.setSt_base, State.setSt_mem, State.setRegRun_setSt]
    cases checkRun s.base (x.val + 1) with
    | error f => rfl
    | ok u => cases loadRun s.mem s.base (x.val + 1) <;> rfl
  | waitKey x =>
    simp only [exec, execWaitKey, State.setSt_kw, State.pollKey_setSt]
    split <;> rfl
  | _ => rfl

/-- Settles O49: the update of `ST` commutes with every instruction but FX18, which writes over it. -/
theorem soundTimerNeverRead : Obligations.SoundTimerNeverRead := by
  intro i s t b h
  constructor
  · intro hi
    rw [exec_setSt i s b hi, h, mapNext]
  · rintro ⟨x, rfl⟩
    exact h

end Sys2Proof.Machine
end

section
/-! The resets, on the event that asks for them (R290 to R292), and the state after reset (R36). -/

namespace Sys2Proof.Machine

theorem step_event {s : State} {e : Event} {rest : List Event} (h : s.env.events = e :: rest) :
    step s = performEvent e (s.dropEvent rest) := by
  simp only [step, h]

theorem SameBut.resetCore {s t : State} {k : Word}
    (h : SameBut [.regs, .index, .pc, .stack, .keyWait, .fault, .env] s t) :
    SameBut [.regs, .index, .pc, .stack, .keyWait, .fault, .env] s (t.resetCore k) :=
  { h with
    regs := absurd (by simp)
    index := absurd (by simp)
    pc := absurd (by simp)
    stack := absurd (by simp)
    keyWait := absurd (by simp)
    fault := absurd (by simp)
    env := absurd (by simp) }

theorem State.resetAll_reg (s : State) (m : List Byte) (c : Vector Addr Config.stackDepth) (k : Word) (r : Reg) :
    (s.resetAll m c k).reg r = 0 := s.resetCore_reg k r

theorem State.resetAll_pixel (s : State) (m : List Byte) (c : Vector Addr Config.stackDepth) (k : Word) (x y : Nat) :
    (s.resetAll m c k).pixel x y = false := Grid.isOn_dark x y

/-- Memory after `reset_all` is the image, where it has a byte of it (R290; log entry 9). -/
theorem State.resetAll_byteAt (s : State) (m : List Byte) (c : Vector Addr Config.stackDepth) (k : Word) (a : Nat)
    (ha : a < m.length) (ha' : a < 4096) : (s.resetAll m c k).byteAt a = m.getD a 0 := by
  rw [State.byteAt, State.resetAll_mem, Memory.read_copyIn, if_pos ⟨Nat.zero_le a, by omega, ha'⟩, Nat.sub_zero]

/-- Settles O12, on the state `resetCore` gives. -/
theorem resetCoreRestarts : Obligations.ResetCoreRestarts := by
  intro s k rest he
  refine ⟨(s.dropEvent rest).resetCore k, step_event he, State.resetCore_reg _ k, rfl, rfl, rfl, rfl, rfl, rfl, ?_, rfl, rfl⟩
  exact (SameBut.refl _ s).setEnv.resetCore

/-- Settles O13, on the state `resetAll` gives. -/
theorem resetAllConstructs : Obligations.ResetAllConstructs := by
  intro s m c k rest hm he
  exact ⟨(s.dropEvent rest).resetAll m c k, step_event he, State.resetAll_reg _ m c k, rfl, rfl, rfl, rfl, rfl, rfl, rfl,
    State.resetAll_pixel _ m c k, fun a ha => State.resetAll_byteAt _ m c k a (hm ▸ ha) ha, rfl, rfl⟩

theorem reset_reg (r : Reg) : State.reset.reg r = 0 := by
  simp [State.reg, State.reset]

/-- Settles O11. -/
theorem resetState : Obligations.ResetState :=
  ⟨reset_reg, rfl, rfl, rfl, Grid.isOn_dark, rfl, rfl, rfl, rfl⟩

/-- Settles O55: memory is empty, `PC` is 0x200, and an empty stack, no key wait and no fault leave the other predicates nothing to
say. -/
theorem resetMeetsInvariants : Obligations.ResetMeetsInvariants :=
  ⟨reset_mem_wf, ⟨by decide, fun _ _ hlt => absurd hlt (Nat.not_lt_zero _)⟩, nofun, nofun, absurd rfl⟩

end Sys2Proof.Machine
end

section
/-! 2NNN with a free entry (R142) and FX0A (R234), each from what the shared operation does. -/

namespace Sys2Proof.Machine

/-- Settles O20, from the two ends of 2NNN: with a free entry it is the call. -/
theorem callResult : Obligations.CallResult := by
  intro nnn s hsp
  obtain ⟨_, e⟩ | ⟨hfull, -⟩ := execCall_cases nnn s
  · exact ⟨_, e, (SameBut.refl _ s).setStack.setPc, rfl, rfl, fun j => by simp [Vector.getElem_set, eq_comm]⟩
  · exact absurd hfull (Nat.ne_of_lt hsp)

/-- The first poll begins the wait. -/
theorem execWaitKey_of_not_waiting (x : Reg) {s : State} (hkw : s.kw = false) :
    execWaitKey x s = .next (s.setKeyWait true s.env.keys) := by
  simp [execWaitKey, hkw]

/-- A later poll with no key newly down goes on waiting. -/
theorem execWaitKey_of_lowestKey_none (x : Reg) {s : State} (hkw : s.kw = true)
    (hj : lowestKey (newlyDown s.env.keys s.kprev) = none) : execWaitKey x s = .next (s.setKeyWait true s.env.keys) := by
  simp [execWaitKey, State.pollKey, hkw, hj]

/-- A later poll with a key newly down captures the lowest. -/
theorem execWaitKey_of_lowestKey_some (x : Reg) {s : State} {j : Nat} (hkw : s.kw = true)
    (hj : lowestKey (newlyDown s.env.keys s.kprev) = some j) :
    execWaitKey x s = .next ((s.setReg x (BitVec.ofNat 8 j)).setKeyWait false s.kprev).advance := by
  simp [execWaitKey, State.pollKey, hkw, hj]

/-- No key is found exactly when every key down was down at the last poll. -/
theorem lowestKey_newlyDown_none (k p : Word) :
    lowestKey (newlyDown k p) = none ↔ ∀ j < 16, k.getLsbD j = true → p.getLsbD j = true := by
  simp only [lowestKey, List.find?_eq_none, List.mem_range]
  refine forall₂_congr fun j hj => ?_
  rw [newlyDown_getLsbD k p j hj]
  simp

/-- The key found is down, was up at the last poll, and every lower key that is down was down already. -/
theorem lowestKey_newlyDown_some (k p : Word) (j : Nat) :
    lowestKey (newlyDown k p) = some j ↔
      j < 16 ∧ (k.getLsbD j = true ∧ p.getLsbD j = false) ∧ ∀ i < j, k.getLsbD i = true → p.getLsbD i = true := by
  rw [lowestKey_some]
  refine and_congr_right fun hj => and_congr (by simp [newlyDown_getLsbD k p j hj]) (forall₂_congr fun i hi => ?_)
  simp [newlyDown_getLsbD k p i (hi.trans hj)]

/-- Settles O43, from the three ends of FX0A: the clauses are the key search finding nothing, or `j`. -/
theorem waitKeyResult : Obligations.WaitKeyResult := by
  intro x s
  refine ⟨fun hkw => ?_, fun hkw hno => ?_, fun j hj hkw hdown hup hlow => ?_⟩
  · exact ⟨_, execWaitKey_of_not_waiting x hkw, (SameBut.refl _ s).setKeyWait, rfl, rfl⟩
  · exact ⟨_, execWaitKey_of_lowestKey_none x hkw ((lowestKey_newlyDown_none _ _).2 hno), (SameBut.refl _ s).setKeyWait, rfl, rfl⟩
  · refine ⟨_, execWaitKey_of_lowestKey_some x hkw ((lowestKey_newlyDown_some _ _ j).2 ⟨hj, ⟨hdown, hup⟩, hlow⟩),
      (SameBut.refl _ s).setReg.setKeyWait.advance, rfl, rfl, ?_, fun r hr => by simp [hr]⟩
    simp
    omega

end Sys2Proof.Machine
end

section
/-! A stopped core stays as it is until a reset (R128, R264). -/

namespace Sys2Proof.Machine

theorem cycle_of_fault {k : Word} {b : Byte} {s : State} {r : FaultRecord} (hf : s.fault = some r) : cycle k b s = .next s := by
  simp only [cycle, hf]

/-- Settles O50: a cycle of a stopped core does nothing, a tick moves the timers, and a load is not allowed. -/
theorem faultStaysUntilReset : Obligations.FaultStaysUntilReset := by
  intro s t r hfresh hf h hcore hall
  have same := SameBut.refl [.dt, .st, .env] s
  obtain ⟨n, k, b, -, e⟩ | ⟨k, b, rest, -, e⟩ | ⟨rest, -, e⟩ | ⟨k, rest, he, -⟩ | ⟨m, c, k, rest, he, -⟩ |
    ⟨m, l, rest, hfr, -⟩ | e := step_cases s
  · cases (e.symm.trans h).symm.trans (cycle_of_fault hf)
    exact ⟨hf, same.elapse.setEnv⟩
  · cases (e.symm.trans h).symm.trans (cycle_of_fault hf)
    exact ⟨hf, same.setEnv⟩
  · cases e.symm.trans h
    exact ⟨hf, same.setEnv.tick⟩
  · exact absurd he (hcore k rest)
  · exact absurd he (hall m c k rest)
  · exact absurd hfr (by simp [hfresh (by simp [hf])])
  · cases e.symm.trans h

end Sys2Proof.Machine
end

section
/-! What a copy of bytes leaves in memory, inside its run and outside it (R63, R76, R77). -/

namespace Sys2Proof.Machine

theorem Memory.read_copyIn_inside (m : Memory) {base k : Nat} {bs : List Byte} (hk : k < bs.length)
    (hfit : base + bs.length ≤ 4096) : (m.copyIn base bs).read (base + k) = bs.getD k 0 := by
  rw [Memory.read_copyIn, if_pos (by omega), Nat.add_sub_cancel_left]

theorem Memory.read_copyIn_outside (m : Memory) {base a : Nat} {bs : List Byte} (ha : ¬(base ≤ a ∧ a < base + bs.length)) :
    (m.copyIn base bs).read a = m.read a := by
  rw [Memory.read_copyIn, if_neg (by omega)]

end Sys2Proof.Machine
end

section
/-! Memory stays in its canonical form (log entry 7; R60, R67): FX33 and FX55 copy bytes in, and so do the loads and `reset_all`; no
other instruction or event touches it. -/

namespace Sys2Proof.Machine

/-- An instruction that does not write memory leaves the very list, not only every byte as the frame says. -/
theorem exec_mem_eq (i : Instr) (s t : State) (hi : .mem ∉ writes i) (h : exec i s = .next t) : t.mem = s.mem := by
  cases i with
  | bcd x | storeRegs x => simp [writes] at hi
  | ret => obtain ⟨-, e⟩ | ⟨_, _, -, e⟩ := execRet_cases s <;> cases e.symm.trans h <;> rfl
  | call nnn => obtain ⟨_, e⟩ | ⟨-, e⟩ := execCall_cases nnn s <;> cases e.symm.trans h <;> rfl
  | drw x y n => obtain ⟨-, e⟩ | ⟨-, -, e⟩ := execDrw_cases x y n s <;> cases e.symm.trans h <;> rfl
  | loadRegs x =>
    obtain ⟨-, e⟩ | ⟨-, e⟩ := execLoadRegs_cases x s <;> cases e.symm.trans h
    · exact s.setRegRun_mem 0 _
    · rfl
  | waitKey x => obtain e | ⟨-, _, -, e⟩ := execWaitKey_cases x s <;> cases e.symm.trans h <;> rfl
  | _ => cases h; rfl

theorem exec_keeps_memoryCanonical (i : Instr) (s t : State) (hs : MemoryCanonical s) (h : exec i s = .next t) :
    MemoryCanonical t := by
  by_cases hi : .mem ∈ writes i
  · cases i with
    | bcd x =>
      obtain ⟨-, e⟩ | ⟨-, e⟩ := execBcd_cases x s <;> cases e.symm.trans h
      · exact Memory.wf_copyIn _ _ _ hs
      · exact hs
    | storeRegs x =>
      obtain ⟨-, e⟩ | ⟨-, e⟩ := execStoreRegs_cases x s <;> cases e.symm.trans h
      · exact Memory.wf_copyIn _ _ _ hs
      · exact hs
    | _ => simp [writes] at hi
  · rw [MemoryCanonical, exec_mem_eq i s t hi h]
    exact hs

theorem memoryCanonical_keptByEvents : KeptByEvents MemoryCanonical where
  clock _ _ hs := hs
  dropEvent _ _ hs := hs
  tick _ hs := hs
  resetCore _ _ hs := hs
  resetAll _ m _ _ _ := Memory.wf_copyIn _ 0 m reset_mem_wf
  load s m _ _ hm hs := by
    obtain rfl | ⟨a, bs, rfl⟩ := hm
    · exact hs
    · exact Memory.wf_copyIn _ a bs hs
  fetchFault _ _ _ _ _ hs := hs
  unrecognized _ _ _ _ _ _ _ hs := hs
  exec s k b _ i t _ _ _ _ hs h := exec_keeps_memoryCanonical i (s.sampleInputs k b) t hs h

/-- Settles O51: every event keeps the form; what changes memory is a copy of bytes, which writes one byte after the other. -/
theorem memoryStaysCanonical : Obligations.MemoryStaysCanonical := memoryCanonical_keptByEvents.step

end Sys2Proof.Machine
end

section
/-! A stopped core takes no load (R78, R256, R293; log entry 10): a core stops only in a cycle, and a cycle closes the load window. -/

namespace Sys2Proof.Machine

theorem env_not_mem_writes (i : Instr) : .env ∉ writes i := by
  cases i <;> simp [writes]

theorem stoppedCoreIsNotFresh_keptByEvents : KeptByEvents StoppedCoreIsNotFresh where
  clock _ _ hs := hs
  dropEvent _ _ hs := hs
  tick _ hs := hs
  resetCore _ _ _ := absurd rfl
  resetAll _ _ _ _ _ := absurd rfl
  load _ _ _ _ _ hs := hs
  fetchFault _ _ _ _ _ _ _ := rfl
  unrecognized _ _ _ _ _ _ _ _ _ := rfl
  exec s k b _ i t _ _ _ _ _ h _ := by
    have henv : t.env = (s.sampleInputs k b).env := (exec_sameBut_writes i _ t h).env (env_not_mem_writes i)
    rw [henv]
    rfl

/-- Settles O56: the window opens only at a reset, which clears the fault, and the cycle that latches one has closed it. -/
theorem stoppedCoreStaysNotFresh : Obligations.StoppedCoreStaysNotFresh := stoppedCoreIsNotFresh_keptByEvents.step

end Sys2Proof.Machine
end

section
/-! The loads of the host, on the event that asks for them (R76 to R78). -/

namespace Sys2Proof.Machine

theorem SameBut.answerLoad {parts : List Part} {s t : State} {l : LoadResult} (h : SameBut parts s t)
    (hp : .env ∈ parts := by simp) : SameBut parts s (t.answerLoad l) :=
  h.setEnv hp

theorem loadFont_of_fresh (font : Vector Byte Config.fontSize) {s : State} (h : s.env.fresh = true) :
    loadFont font s = .next ((s.setMem (s.mem.copyIn 0 font.toList)).answerLoad .loaded) :=
  if_pos h

theorem loadFont_of_not_fresh (font : Vector Byte Config.fontSize) {s : State} (h : s.env.fresh = false) :
    loadFont font s = .refused .loadWhileRunning :=
  if_neg (by simp [h])

theorem loadProgram_of_fits {bytes : List Byte} {s : State} (h : s.env.fresh = true) (hlen : bytes.length ≤ 3584) :
    loadProgram bytes s = .next ((s.setMem (s.mem.copyIn 0x200 bytes)).answerLoad .loaded) :=
  (if_pos h).trans (if_pos hlen)

theorem loadProgram_of_too_large {bytes : List Byte} {s : State} (h : s.env.fresh = true) (hlen : 3584 < bytes.length) :
    loadProgram bytes s = .next (s.answerLoad .romTooLarge) :=
  (if_pos h).trans (if_neg (Nat.not_le_of_gt hlen))

theorem loadProgram_of_not_fresh (bytes : List Byte) {s : State} (h : s.env.fresh = false) :
    loadProgram bytes s = .refused .loadWhileRunning :=
  if_neg (by simp [h])

/-- Settles O14: the two clauses are the two ends of a load that is allowed. -/
theorem programLoadCopiesOrRefuses : Obligations.ProgramLoadCopiesOrRefuses := by
  intro s bytes rest hfresh he
  have same (parts : List Part) (hp : .env ∈ parts) : SameBut parts s (s.dropEvent rest) := (SameBut.refl parts s).setEnv hp
  refine ⟨fun hlen => ?_, fun hlen => ?_⟩
  · exact ⟨_, (step_event he).trans (loadProgram_of_fits hfresh hlen), (same _ (by simp)).setMem.answerLoad, rfl,
      fun j hj => Memory.read_copyIn_inside s.mem hj (by omega), fun a ha => Memory.read_copyIn_outside s.mem ha⟩
  · exact ⟨_, (step_event he).trans (loadProgram_of_too_large hfresh hlen), (same _ (by simp)).answerLoad, rfl⟩

/-- Settles O15: a font is 80 bytes, and they lie inside memory. -/
theorem fontLoadCopies : Obligations.FontLoadCopies := by
  intro s font rest hfresh he
  have hlen : font.toList.length = 80 := font.length_toList
  refine ⟨_, (step_event he).trans (loadFont_of_fresh font hfresh), (SameBut.refl _ s).setEnv.setMem.answerLoad, fun j => ?_,
    fun a ha => Memory.read_copyIn_outside s.mem (by omega)⟩
  calc (s.mem.copyIn 0 font.toList).read j.val
    _ = (s.mem.copyIn 0 font.toList).read (0 + j.val) := by rw [Nat.zero_add]
    _ = font.toList.getD j.val 0 := Memory.read_copyIn_inside s.mem (by omega) (by omega)
    _ = font[j.val] := by simp

/-- Settles O16: once a cycle has been taken, either load has one end, the refusal. -/
theorem loadWhileRunningRefused : Obligations.LoadWhileRunningRefused :=
  fun _ _ hfresh => ⟨fun font he => (step_event he).trans (loadFont_of_not_fresh font hfresh),
    fun bytes he => (step_event he).trans (loadProgram_of_not_fresh bytes hfresh)⟩

end Sys2Proof.Machine
end

section
/-! The checked accesses to memory (R62, R65 to R67), and the fetch outside it (R255, R260). -/

namespace Sys2Proof.Machine

theorem memRead_ok (m : Memory) {a : Nat} (h : a ≤ 4095) : memRead m a = .ok (m.read a) :=
  if_pos (Nat.lt_succ_of_le h)

theorem memRead_error (m : Memory) {a : Nat} (h : 4096 ≤ a) : memRead m a = .error (.outOfBounds a) :=
  if_neg (Nat.not_lt_of_ge h)

theorem memWrite_ok (m : Memory) {a : Nat} (v : Byte) (h : a ≤ 4095) : memWrite m a v = .ok (m.write a v) :=
  if_pos (Nat.lt_succ_of_le h)

theorem memWrite_error (m : Memory) {a : Nat} (v : Byte) (h : 4096 ≤ a) : memWrite m a v = .error (.outOfBounds a) :=
  if_neg (Nat.not_lt_of_ge h)

/-- Settles O17, from the two ends of each read. -/
theorem memReadRule : Obligations.MemReadRule := fun m a =>
  ⟨memRead_ok m, memRead_error m, fun h => ⟨_, memRead2_ok m a (by omega), wordOfBytes_toNat _ _⟩,
    fun h => memRead2_error m a (by omega)⟩

/-- Settles O18, from the two ends of a write and the read after it. -/
theorem memWriteRule : Obligations.MemWriteRule := fun m a v =>
  ⟨fun h => ⟨m.write a v, memWrite_ok m v h, by simp, fun b hb => by simp [hb]⟩, memWrite_error m v⟩

/-- A fault taken is a fault latched: the record, and nothing else (R255, R257). -/
theorem latches_takeFault (s : State) (f : Fault) (word : Option Word) :
    Latches s (s.takeFault f word) f.code word f.recordedAddr :=
  ⟨rfl, (SameBut.refl _ s).takeFault⟩

/-- Settles O7, from the ends of a cycle: with `PC >= 4095` and no fault latched only the fault at fetch is left. -/
theorem fetchOutOfBoundsFaults : Obligations.FetchOutOfBoundsFaults := by
  intro s k b hf hpc
  obtain ⟨hne, -⟩ | ⟨-, -, e⟩ | ⟨-, hle, -⟩ | ⟨-, hle, -⟩ := cycle_cases k b s
  · exact absurd hf hne
  · exact ⟨_, e, latches_takeFault _ _ _⟩
  · omega
  · omega

end Sys2Proof.Machine
end

section
/-! FX33, FX55, FX65 and DXYN, at their two ends: the run fits in memory, or it passes 4095 (R68, R193 to R195, R251). -/

namespace Sys2Proof.Machine

theorem RunFits.base_add_le {s : State} {len : Nat} (h : RunFits s len) (hlen : 0 < len) : s.base + len ≤ 4096 :=
  h.resolve_left hlen.ne'

theorem execBcd_of_fits (x : Reg) {s : State} (h : s.base + 3 ≤ 4096) :
    execBcd x s = .next (s.setMem (s.mem.copyIn s.base (bcdDigits (s.reg x)))).advance := by
  obtain ⟨-, e⟩ | ⟨hlt, -⟩ := execBcd_cases x s
  · exact e
  · omega

theorem execStoreRegs_of_fits (x : Reg) {s : State} (h : s.base + (x.val + 1) ≤ 4096) :
    execStoreRegs x s = .next (s.setMem (s.mem.copyIn s.base (s.regRun x))).advance := by
  obtain ⟨-, e⟩ | ⟨hlt, -⟩ := execStoreRegs_cases x s
  · exact e
  · omega

theorem execLoadRegs_of_fits (x : Reg) {s : State} (h : s.base + (x.val + 1) ≤ 4096) :
    execLoadRegs x s =
      .next ((s.setRegRun 0 (s.runBytes (x.val + 1))).setIndex (s.index + BitVec.ofNat 16 (x.val + 1))).advance := by
  obtain ⟨-, e⟩ | ⟨hlt, -⟩ := execLoadRegs_cases x s
  · exact e
  · omega

/-- The digits put together give the byte, and the last two are decimal digits (R193). -/
theorem bcdDigits_value (b : Byte) :
    100 * ((bcdDigits b).getD 0 0).toNat + 10 * ((bcdDigits b).getD 1 0).toNat + ((bcdDigits b).getD 2 0).toNat = b.toNat ∧
      ((bcdDigits b).getD 1 0).toNat ≤ 9 ∧ ((bcdDigits b).getD 2 0).toNat ≤ 9 := by
  have := b.isLt
  simp [bcdDigits]
  omega

/-- Settles O34: the bytes of the run are the three digits. -/
theorem bcdResult : Obligations.BcdResult := by
  intro x s hfits
  have hfit : s.base + 3 ≤ 4096 := hfits.base_add_le (by decide)
  have hdigit (k : Nat) (hk : k < 3) :
      (s.mem.copyIn s.base (bcdDigits (s.reg x))).read (s.base + k) = (bcdDigits (s.reg x)).getD k 0 :=
    Memory.read_copyIn_inside s.mem hk hfit
  obtain ⟨hvalue, htens, hones⟩ := bcdDigits_value (s.reg x)
  rw [← hdigit 0 (by decide), ← hdigit 1 (by decide), ← hdigit 2 (by decide)] at hvalue
  rw [← hdigit 1 (by decide)] at htens
  rw [← hdigit 2 (by decide)] at hones
  exact ⟨_, execBcd_of_fits x hfit, (SameBut.refl _ s).setMem.advance, rfl, hvalue, htens, hones,
    fun a ha => Memory.read_copyIn_outside s.mem ha⟩

/-- A register stored by FX55, read back from its address (R194). -/
theorem Memory.read_copyIn_regRun {s : State} {x r : Reg} (m : Memory) (hfit : s.base + (x.val + 1) ≤ 4096) (hr : r.val ≤ x.val) :
    (m.copyIn s.base (s.regRun x)).read (s.base + r.val) = s.reg r := by
  rw [Memory.read_copyIn_inside m (by simp; omega) (by simpa using hfit), State.regRun_getD s x r hr]

/-- Settles O35: the run holds the registers, and the copy leaves every byte outside it. -/
theorem storeRegsResult : Obligations.StoreRegsResult := by
  intro x s hfits
  have hfit : s.base + (x.val + 1) ≤ 4096 := hfits.base_add_le (Nat.succ_pos _)
  exact ⟨_, execStoreRegs_of_fits x hfit, (SameBut.refl _ s).setMem.advance, rfl,
    fun r hr => Memory.read_copyIn_regRun s.mem hfit hr,
    fun a ha => Memory.read_copyIn_outside s.mem (by simpa using ha)⟩

/-- Settles O36: the run starts at register 0, and `I` does not wrap inside memory. -/
theorem loadRegsResult : Obligations.LoadRegsResult := by
  intro x s hfits
  have hfit : s.base + (x.val + 1) ≤ 4096 := hfits.base_add_le (Nat.succ_pos _)
  refine ⟨_, execLoadRegs_of_fits x hfit, (SameBut.refl _ s).setRegRun.setIndex.advance, by simp, fun r => ?_, ?_⟩
  · simp only [State.advance_reg, State.setIndex_reg, State.setRegRun_reg, State.runBytes_length, Nat.zero_le, true_and,
      Nat.zero_add, Nat.sub_zero, Nat.lt_succ_iff]
    split
    · next hr => exact s.runBytes_getD _ _ (Nat.lt_succ_of_le hr)
    · rfl
  · have hbase : s.index.toNat = s.base := rfl
    simp
    omega

/-- Settles O37, from the ends of the four instructions: a run that passes 4095 does not fit. -/
theorem dataOutOfBoundsFaults : Obligations.DataOutOfBoundsFaults := by
  intro x y n s
  refine ⟨fun h => ?_, fun h => ?_, fun h => ?_, fun hn h => ?_⟩
  · obtain ⟨hfit, -⟩ | ⟨-, e⟩ := execBcd_cases x s
    · omega
    · exact ⟨_, e, latches_takeFault _ _ _⟩
  · obtain ⟨hfit, -⟩ | ⟨-, e⟩ := execStoreRegs_cases x s
    · omega
    · exact ⟨_, e, latches_takeFault _ _ _⟩
  · obtain ⟨hfit, -⟩ | ⟨-, e⟩ := execLoadRegs_cases x s
    · omega
    · exact ⟨_, e, latches_takeFault _ _ _⟩
  · obtain ⟨hfit, -⟩ | ⟨-, -, e⟩ := execDrw_cases x y n s
    · omega
    · exact ⟨_, e, latches_takeFault _ _ _⟩

/-- Settles O39: after the store `PC` is the base of the run, whose first two bytes are `V[0]` and `V[1]`. -/
theorem storeSeenByNextFetch : Obligations.StoreSeenByNextFetch := by
  intro x s hx hfits hbase
  have hfit : s.base + (x.val + 1) ≤ 4096 := hfits.base_add_le (Nat.succ_pos _)
  refine ⟨_, execStoreRegs_of_fits x hfit, ?_⟩
  have hpc : (s.pc + 2).toNat = s.base := by
    simp
    omega
  have h0 := Memory.read_copyIn_regRun (r := 0) s.mem hfit (Nat.zero_le _)
  have h1 := Memory.read_copyIn_regRun (r := 1) s.mem hfit hx
  calc memRead2 (s.mem.copyIn s.base (s.regRun x)) (s.pc + 2).toNat
    _ = memRead2 (s.mem.copyIn s.base (s.regRun x)) s.base := by rw [hpc]
    _ = .ok (wordOfBytes (s.reg 0) (s.reg 1)) := by rw [memRead2_ok _ _ (by omega), ← h0, ← h1]; rfl

end Sys2Proof.Machine
end

section
/-! The fields of an encoded word, format by format (R91, R92, R104): a format puts its operands where the decoder looks for them,
beside the bits of the match value that the second level selects by (R94, R96). -/

namespace Sys2Proof

/-! ### Format NNN -/

theorem fieldF_wordNNN (base : Nat) (nnn : Addr) (h : base % 4096 = 0) (h' : base < 65536) :
    fieldF (wordNNN base nnn) = base / 4096 := by
  rw [fieldF_eq, wordNNN_toNat base nnn h h']
  omega

theorem fieldNNN_wordNNN (base : Nat) (nnn : Addr) (h : base % 4096 = 0) (h' : base < 65536) (hfits : fitsNNN nnn = true) :
    fieldNNN (wordNNN base nnn) = nnn := by
  have hlt : nnn.toNat < 4096 := of_decide_eq_true hfits
  apply BitVec.eq_of_toNat_eq
  rw [fieldNNN_toNat, wordNNN_toNat base nnn h h']
  omega

/-! ### Format XNN -/

theorem fieldF_wordXNN (base : Nat) (x : Reg) (nn : Byte) (h : base % 4096 = 0) (h' : base < 65536) :
    fieldF (wordXNN base x nn) = base / 4096 := by
  rw [fieldF_eq, wordXNN_toNat base x nn h h']
  omega

theorem fieldX_wordXNN (base : Nat) (x : Reg) (nn : Byte) (h : base % 4096 = 0) (h' : base < 65536) :
    fieldX (wordXNN base x nn) = x := by
  apply Fin.ext
  rw [fieldX_val, wordXNN_toNat base x nn h h']
  omega

theorem fieldNN_wordXNN (base : Nat) (x : Reg) (nn : Byte) (h : base % 4096 = 0) (h' : base < 65536) :
    fieldNN (wordXNN base x nn) = nn := by
  apply BitVec.eq_of_toNat_eq
  rw [fieldNN_toNat, wordXNN_toNat base x nn h h']
  omega

/-! ### Formats XY and XYN -/

theorem fieldF_wordXY (base : Nat) (x y : Reg) (h : base % 4096 < 16) (h' : base < 65536) :
    fieldF (wordXY base x y) = base / 4096 := by
  rw [fieldF_eq, wordXY_toNat base x y h h']
  omega

theorem fieldX_wordXY (base : Nat) (x y : Reg) (h : base % 4096 < 16) (h' : base < 65536) :
    fieldX (wordXY base x y) = x := by
  apply Fin.ext
  rw [fieldX_val, wordXY_toNat base x y h h']
  omega

theorem fieldY_wordXY (base : Nat) (x y : Reg) (h : base % 4096 < 16) (h' : base < 65536) :
    fieldY (wordXY base x y) = y := by
  apply Fin.ext
  rw [fieldY_val, wordXY_toNat base x y h h']
  omega

theorem fieldN_wordXY (base : Nat) (x y : Reg) (h : base % 4096 < 16) (h' : base < 65536) :
    fieldN (wordXY base x y) = base % 16 := by
  rw [fieldN_eq, wordXY_toNat base x y h h']
  omega

/-! ### Format X -/

theorem fieldF_wordX (base : Nat) (x : Reg) (h : base % 4096 < 256) (h' : base < 65536) :
    fieldF (wordX base x) = base / 4096 := by
  rw [fieldF_eq, wordX_toNat base x h h']
  omega

theorem fieldX_wordX (base : Nat) (x : Reg) (h : base % 4096 < 256) (h' : base < 65536) :
    fieldX (wordX base x) = x := by
  apply Fin.ext
  rw [fieldX_val, wordX_toNat base x h h']
  omega

theorem slice_low_byte_wordX (base : Nat) (x : Reg) (h : base % 4096 < 256) (h' : base < 65536) :
    slice (wordX base x) 7 0 = base % 256 := by
  rw [slice_low_byte, wordX_toNat base x h h']
  omega

end Sys2Proof
end

section
/-! Decoding after encoding (R92, R95, R104): the decoder reads each instruction back from its word and from its two bytes. -/

namespace Sys2Proof

/-- The decoder reads a well-formed instruction back from its word: per format, the family and the second level select the
instruction, and each operand is read from the field it was put in. -/
theorem decodeWord_encode (i : Instr) (hwf : i.wellFormed = true) : decodeWord (encode i) = some i := by
  cases i with
  | cls | ret => rfl
  | jp nnn | call nnn | ldI nnn | jpV0 nnn =>
    have hfits : fitsNNN nnn = true := hwf
    simp [encode, decodeWord, fieldF_wordNNN, fieldNNN_wordNNN, hfits]
  | seByte x nn | sneByte x nn | ldByte x nn | addByte x nn | rnd x nn =>
    simp [encode, decodeWord, fieldF_wordXNN, fieldX_wordXNN, fieldNN_wordXNN]
  | seReg x y | sneReg x y =>
    simp [encode, decodeWord, fieldF_wordXY, fieldX_wordXY, fieldY_wordXY, fieldN_wordXY]
  | ldReg x y | orReg x y | andReg x y | xorReg x y | addReg x y | subReg x y | shr x y | subnReg x y | shl x y =>
    simp [encode, decodeWord, decodeFamily8, fieldF_wordXY, fieldX_wordXY, fieldY_wordXY, fieldN_wordXY]
  | drw x y n =>
    have hn : n < 16 := of_decide_eq_true hwf
    have hF : fieldF (encode (.drw x y n)) = 0xD := by
      rw [encode, fieldF_wordXY _ x y (by omega) (by omega)]
      omega
    rw [decodeWord_familyD _ hF, encode, fieldX_wordXY _ x y (by omega) (by omega), fieldY_wordXY _ x y (by omega) (by omega),
      fieldN_wordXY _ x y (by omega) (by omega), show (0xD000 + n % 16) % 16 = n by omega]
  | skp x | sknp x =>
    simp [encode, decodeWord, decodeFamilyE, fieldF_wordX, fieldX_wordX, slice_low_byte_wordX]
  | getDelay x | waitKey x | setDelay x | setSound x | addI x | ldFont x | bcd x | storeRegs x | loadRegs x =>
    simp [encode, decodeWord, decodeFamilyF, fieldF_wordX, fieldX_wordX, slice_low_byte_wordX]

/-- The two bytes of an instruction hold its word, and the decoder gives back what follows them (R62, R90). -/
theorem decode_encodeBytes_append (i : Instr) (rest : List Byte) (h : decodeWord (encode i) = some i) :
    decode (encodeBytes i ++ rest) = .ok (i, rest) := by
  simp only [encodeBytes, List.cons_append, List.nil_append, decode, wordOfBytes_bytes, h]

/-- Settles O1, from the fields of an encoded word, format by format. -/
theorem decodeAfterEncode : Obligations.DecodeAfterEncode := by
  intro i hwf
  have h := decodeWord_encode i hwf
  exact ⟨h, fun rest => decode_encodeBytes_append i rest h⟩

end Sys2Proof
end

section
/-! Encoding after decoding (R92, R101, R104): the fields the decoder reads, with the bits it selects by, are the whole word. -/

namespace Sys2Proof

/-! ### A format put together from the fields of a word -/

theorem wordNNN_fields {base : Nat} {w : Word} (h : base = 4096 * fieldF w) : wordNNN base (fieldNNN w) = w := by
  have := w.isLt
  rw [fieldF_eq] at h
  apply BitVec.eq_of_toNat_eq
  rw [wordNNN_toNat base _ (by omega) (by omega), fieldNNN_toNat]
  omega

theorem wordXNN_fields {base : Nat} {w : Word} (h : base = 4096 * fieldF w) : wordXNN base (fieldX w) (fieldNN w) = w := by
  have := w.isLt
  rw [fieldF_eq] at h
  apply BitVec.eq_of_toNat_eq
  rw [wordXNN_toNat base _ _ (by omega) (by omega), fieldX_val, fieldNN_toNat]
  omega

theorem wordXY_fields {base : Nat} {w : Word} (h : base = 4096 * fieldF w + fieldN w) :
    wordXY base (fieldX w) (fieldY w) = w := by
  have := w.isLt
  rw [fieldF_eq, fieldN_eq] at h
  apply BitVec.eq_of_toNat_eq
  rw [wordXY_toNat base _ _ (by omega) (by omega), fieldX_val, fieldY_val]
  omega

theorem wordX_fields {base : Nat} {w : Word} (h : base = 4096 * fieldF w + slice w 7 0) : wordX base (fieldX w) = w := by
  have := w.isLt
  rw [fieldF_eq, slice_low_byte] at h
  apply BitVec.eq_of_toNat_eq
  rw [wordX_toNat base _ (by omega) (by omega), fieldX_val]
  omega

/-- DXYN is format XY with the low nibble as its operand. -/
theorem encode_drw_fields {w : Word} (hF : fieldF w = 0xD) : encode (.drw (fieldX w) (fieldY w) (fieldN w)) = w := by
  have hN : fieldN w % 16 = fieldN w := by
    rw [fieldN_eq, Nat.mod_mod]
  exact wordXY_fields (by rw [hN, hF])

/-! ### The families with a second level -/

theorem encode_of_decodeFamily8 {w : Word} {i : Instr} (hF : fieldF w = 0x8) (h : decodeFamily8 w = some i) : encode i = w := by
  unfold decodeFamily8 at h
  split at h <;> cases h <;> exact wordXY_fields (by omega)

theorem encode_of_decodeFamilyE {w : Word} {i : Instr} (hF : fieldF w = 0xE) (h : decodeFamilyE w = some i) : encode i = w := by
  unfold decodeFamilyE at h
  split at h <;> cases h <;> exact wordX_fields (by omega)

theorem encode_of_decodeFamilyF {w : Word} {i : Instr} (hF : fieldF w = 0xF) (h : decodeFamilyF w = some i) : encode i = w := by
  unfold decodeFamilyF at h
  split at h <;> cases h <;> exact wordX_fields (by omega)

/-- A word that decodes is the encoding of what it decodes to, family by family. -/
theorem encode_of_decodeWord {w : Word} {i : Instr} (h : decodeWord w = some i) : encode i = w := by
  unfold decodeWord at h
  split at h
  · split at h
    · next hw => cases h; exact hw.symm
    · obtain ⟨hw, hi⟩ := Option.ite_none_right_eq_some.1 h
      cases hi; exact hw.symm
  · next hF => cases h; exact wordNNN_fields (by omega)
  · next hF => cases h; exact wordNNN_fields (by omega)
  · next hF => cases h; exact wordXNN_fields (by omega)
  · next hF => cases h; exact wordXNN_fields (by omega)
  · next hF =>
    obtain ⟨hN, hi⟩ := Option.ite_none_right_eq_some.1 h
    cases hi; exact wordXY_fields (by omega)
  · next hF => cases h; exact wordXNN_fields (by omega)
  · next hF => cases h; exact wordXNN_fields (by omega)
  · next hF => exact encode_of_decodeFamily8 hF h
  · next hF =>
    obtain ⟨hN, hi⟩ := Option.ite_none_right_eq_some.1 h
    cases hi; exact wordXY_fields (by omega)
  · next hF => cases h; exact wordNNN_fields (by omega)
  · next hF => cases h; exact wordNNN_fields (by omega)
  · next hF => cases h; exact wordXNN_fields (by omega)
  · next hF => cases h; exact encode_drw_fields hF
  · next hF => exact encode_of_decodeFamilyE hF h
  · next hF => exact encode_of_decodeFamilyF hF h
  · cases h

/-- Settles O2, from the branches of the decoder; it gives well-formed instructions only. -/
theorem encodeAfterDecode : Obligations.EncodeAfterDecode := fun w i h =>
  ⟨encode_of_decodeWord h, decodeWord_wellFormed w i h⟩

end Sys2Proof
end

section
/-! The opcode map (R95): the words of a row are the encodings of one instruction, and every encoding is a word of the row with its
mnemonic. So the decoder and the map agree. -/

namespace Sys2Proof

/-! ### The match value of a row, from the fields of a word that matches it -/

theorem pattern_of_isMatch_F000 {name : String} {p w : Word} (h : (Row.mk name 0xF000 p).isMatch w = true) :
    p.toNat = 4096 * fieldF w := by
  rw [fieldF_eq, (isMatch_F000 name p w).1 h]

theorem pattern_of_isMatch_F00F {name : String} {p w : Word} (h : (Row.mk name 0xF00F p).isMatch w = true) :
    p.toNat = 4096 * fieldF w + fieldN w := by
  rw [fieldF_eq, fieldN_eq, (isMatch_F00F name p w).1 h]

theorem pattern_of_isMatch_F0FF {name : String} {p w : Word} (h : (Row.mk name 0xF0FF p).isMatch w = true) :
    p.toNat = 4096 * fieldF w + slice w 7 0 := by
  rw [fieldF_eq, slice_low_byte, (isMatch_F0FF name p w).1 h]

theorem eq_pattern_of_isMatch_FFFF {name : String} {p w : Word} (h : (Row.mk name 0xFFFF p).isMatch w = true) : w = p :=
  BitVec.eq_of_toNat_eq ((isMatch_FFFF name p w).1 h)

/-! ### Every word of a row is an encoding -/

/-- Each word that matches the row is the encoding of a well-formed instruction with the row's mnemonic. -/
def Row.WordsAreEncodings (r : Row) : Prop :=
  ∀ w, r.isMatch w = true → ∃ i, encode i = w ∧ i.wellFormed = true ∧ i.mnemonic = r.mnemonic

theorem Row.WordsAreEncodings.const {name : String} {p : Word} (i : Instr)
    (h : encode i = p ∧ i.wellFormed = true ∧ i.mnemonic = name) : (Row.mk name 0xFFFF p).WordsAreEncodings := by
  intro w hw
  rw [eq_pattern_of_isMatch_FFFF hw]
  exact ⟨i, h⟩

theorem Row.WordsAreEncodings.formatNNN {name : String} {p : Word} (f : Addr → Instr)
    (h : ∀ nnn, encode (f nnn) = wordNNN p.toNat nnn ∧ (f nnn).wellFormed = fitsNNN nnn ∧ (f nnn).mnemonic = name) :
    (Row.mk name 0xF000 p).WordsAreEncodings := by
  intro w hw
  obtain ⟨hword, hwf, hname⟩ := h (fieldNNN w)
  exact ⟨_, hword.trans (wordNNN_fields (pattern_of_isMatch_F000 hw)), hwf.trans (fitsNNN_fieldNNN w), hname⟩

theorem Row.WordsAreEncodings.formatXNN {name : String} {p : Word} (f : Reg → Byte → Instr)
    (h : ∀ x nn, encode (f x nn) = wordXNN p.toNat x nn ∧ (f x nn).wellFormed = true ∧ (f x nn).mnemonic = name) :
    (Row.mk name 0xF000 p).WordsAreEncodings := by
  intro w hw
  obtain ⟨hword, hwf, hname⟩ := h (fieldX w) (fieldNN w)
  exact ⟨_, hword.trans (wordXNN_fields (pattern_of_isMatch_F000 hw)), hwf, hname⟩

theorem Row.WordsAreEncodings.formatXY {name : String} {p : Word} (f : Reg → Reg → Instr)
    (h : ∀ x y, encode (f x y) = wordXY p.toNat x y ∧ (f x y).wellFormed = true ∧ (f x y).mnemonic = name) :
    (Row.mk name 0xF00F p).WordsAreEncodings := by
  intro w hw
  obtain ⟨hword, hwf, hname⟩ := h (fieldX w) (fieldY w)
  exact ⟨_, hword.trans (wordXY_fields (pattern_of_isMatch_F00F hw)), hwf, hname⟩

theorem Row.WordsAreEncodings.formatX {name : String} {p : Word} (f : Reg → Instr)
    (h : ∀ x, encode (f x) = wordX p.toNat x ∧ (f x).wellFormed = true ∧ (f x).mnemonic = name) :
    (Row.mk name 0xF0FF p).WordsAreEncodings := by
  intro w hw
  obtain ⟨hword, hwf, hname⟩ := h (fieldX w)
  exact ⟨_, hword.trans (wordX_fields (pattern_of_isMatch_F0FF hw)), hwf, hname⟩

theorem wordsAreEncodings_drw : (Row.mk "DXYN" 0xF000 0xD000).WordsAreEncodings := by
  intro w hw
  have hp : 0xD000 = 4096 * fieldF w := pattern_of_isMatch_F000 hw
  exact ⟨_, encode_drw_fields (by omega), fitsN_fieldN w, rfl⟩

open Row.WordsAreEncodings in
/-- The 34 rows of R95, each with the instruction its words encode, by the row's format. -/
theorem opcodeMap_wordsAreEncodings : ∀ r ∈ opcodeMap, r.WordsAreEncodings := by
  simp only [opcodeMap, opcodeRowsLow, opcodeRows8, opcodeRowsHigh, List.cons_append, List.nil_append, List.forall_mem_cons]
  refine ⟨const .cls ?_, const .ret ?_, formatNNN .jp ?_, formatNNN .call ?_, formatXNN .seByte ?_, formatXNN .sneByte ?_,
    formatXY .seReg ?_, formatXNN .ldByte ?_, formatXNN .addByte ?_, formatXY .ldReg ?_, formatXY .orReg ?_, formatXY .andReg ?_,
    formatXY .xorReg ?_, formatXY .addReg ?_, formatXY .subReg ?_, formatXY .shr ?_, formatXY .subnReg ?_, formatXY .shl ?_,
    formatXY .sneReg ?_, formatNNN .ldI ?_, formatNNN .jpV0 ?_, formatXNN .rnd ?_, wordsAreEncodings_drw, formatX .skp ?_,
    formatX .sknp ?_, formatX .getDelay ?_, formatX .waitKey ?_, formatX .setDelay ?_, formatX .setSound ?_, formatX .addI ?_,
    formatX .ldFont ?_, formatX .bcd ?_, formatX .storeRegs ?_, formatX .loadRegs ?_, nofun⟩
  all_goals (intros; exact ⟨rfl, rfl, rfl⟩)

/-! ### Every encoding is a word of a row -/

open Laws.RowMatch in
/-- The word of an instruction matches the row with its mnemonic. -/
theorem rowMatch : ∀ i : Instr, Statement i
  | .cls => cls | .ret => ret | .jp x => jp x | .call x => call x | .seByte x y => seByte x y
  | .sneByte x y => sneByte x y | .seReg x y => seReg x y | .ldByte x y => ldByte x y | .addByte x y => addByte x y
  | .ldReg x y => ldReg x y | .orReg x y => orReg x y | .andReg x y => andReg x y | .xorReg x y => xorReg x y
  | .addReg x y => addReg x y | .subReg x y => subReg x y | .shr x y => shr x y | .subnReg x y => subnReg x y
  | .shl x y => shl x y | .sneReg x y => sneReg x y | .ldI x => ldI x | .jpV0 x => jpV0 x | .rnd x y => rnd x y
  | .drw x y n => drw x y n | .skp x => skp x | .sknp x => sknp x | .getDelay x => getDelay x | .waitKey x => waitKey x
  | .setDelay x => setDelay x | .setSound x => setSound x | .addI x => addI x | .ldFont x => ldFont x | .bcd x => bcd x
  | .storeRegs x => storeRegs x | .loadRegs x => loadRegs x

/-! ### The decoder and the map -/

/-- No two rows have one mnemonic. -/
theorem eq_of_mnemonic_eq {r q : Row} (hr : r ∈ opcodeMap) (hq : q ∈ opcodeMap) (h : r.mnemonic = q.mnemonic) : r = q :=
  List.inj_on_of_nodup_map (f := Row.mnemonic) (l := opcodeMap) (by decide) hr hq h

theorem isMatch_iff_decodeWord {r : Row} (hr : r ∈ opcodeMap) (w : Word) :
    r.isMatch w = true ↔ ∃ i, decodeWord w = some i ∧ i.mnemonic = r.mnemonic := by
  constructor
  · intro h
    obtain ⟨i, rfl, hwf, hname⟩ := opcodeMap_wordsAreEncodings r hr w h
    exact ⟨i, decodeWord_encode i hwf, hname⟩
  · rintro ⟨i, hi, hname⟩
    obtain ⟨q, hq, hqname, hmatch⟩ := rowMatch i
    obtain rfl := eq_of_mnemonic_eq hq hr (hqname.trans hname)
    rwa [encode_of_decodeWord hi] at hmatch

/-- A word decodes to at most one instruction, whose mnemonic is that of at most one row. -/
theorem eq_of_isMatch {r q : Row} {w : Word} (hr : r ∈ opcodeMap) (hq : q ∈ opcodeMap) (h : r.isMatch w = true)
    (h' : q.isMatch w = true) : r = q := by
  obtain ⟨i, hi, hname⟩ := (isMatch_iff_decodeWord hr w).1 h
  obtain ⟨j, hj, hname'⟩ := (isMatch_iff_decodeWord hq w).1 h'
  obtain rfl : i = j := Option.some.inj (hi.symm.trans hj)
  exact eq_of_mnemonic_eq hr hq (hname.symm.trans hname')

theorem decodeWord_eq_none_iff (w : Word) : decodeWord w = none ↔ ∀ r ∈ opcodeMap, r.isMatch w = false := by
  constructor
  · intro hnone r hr
    refine Bool.eq_false_iff.2 fun h => ?_
    obtain ⟨i, hi, -⟩ := (isMatch_iff_decodeWord hr w).1 h
    exact nomatch hnone.symm.trans hi
  · intro hno
    refine Option.eq_none_iff_forall_ne_some.2 fun i hi => ?_
    obtain ⟨r, hr, -, hmatch⟩ := rowMatch i
    rw [encode_of_decodeWord hi, hno r hr] at hmatch
    exact nomatch hmatch

/-- Settles O3: the words of each row, and the row of each instruction's word. -/
theorem decodeFollowsOpcodeMap : Obligations.DecodeFollowsOpcodeMap := fun w =>
  ⟨fun _ hr => isMatch_iff_decodeWord hr w, fun _ hr _ hq => eq_of_isMatch hr hq, decodeWord_eq_none_iff w⟩

/-- Settles O4, by evaluating the decoder on the twenty-five words. -/
theorem sampleWordsDecode : Obligations.SampleWordsDecode := by
  unfold Obligations.SampleWordsDecode
  decide

end Sys2Proof
end

section
/-! A cycle whose word is unrecognized (R97, R252, R255, R257). -/

namespace Sys2Proof.Machine

/-- Settles O6, from the ends of a cycle: a word that is fetched and does not decode leaves only the fault of decode. -/
theorem unrecognizedWordFaults : Obligations.UnrecognizedWordFaults := by
  intro s k b w hf hw hd
  obtain ⟨hne, -⟩ | ⟨-, hpc, -⟩ | ⟨-, -, w', hw', -, e⟩ | ⟨-, -, w', i, hw', hd', -⟩ := cycle_cases k b s
  · exact absurd hf hne
  · exact nomatch (fetch_error_of_pc s hpc).symm.trans hw
  · cases hw.symm.trans hw'
    exact ⟨_, e, latches_takeFault _ _ _⟩
  · cases hw.symm.trans hw'
    exact nomatch hd.symm.trans hd'

end Sys2Proof.Machine
end

section
/-! An instruction that latches a fault latches it and nothing else (R132, R257). -/

namespace Sys2Proof.Machine

/-- Settles O47, from the outcome of every instruction: where the record differs, the fault was taken from the state it began in. -/
theorem execFaultsArePrecise : Obligations.ExecFaultsArePrecise := by
  intro i s t h hne
  obtain ⟨_, e, hkeep⟩ | ⟨-, f, e⟩ := exec_keepsFault_or_takesFault i s <;> cases e.symm.trans h
  · exact absurd hkeep hne
  · exact (SameBut.refl _ s).takeFault

end Sys2Proof.Machine
end

section
/-! The timers as numbers (R238), and the ticks of a free cycle in one go (R127; log entry 6). -/

namespace Sys2Proof.Machine

theorem tickTimer_toNat (b : Byte) : (tickTimer b).toNat = b.toNat - 1 := by
  unfold tickTimer
  split <;> bv_omega

theorem elapseTimer_toNat (b : Byte) (n : Nat) : (elapseTimer b n).toNat = b.toNat - n := by
  unfold elapseTimer
  split
  · next h => simp [h]
  · exact Nat.mod_eq_of_lt (Nat.lt_of_le_of_lt (Nat.sub_le _ _) b.isLt)

@[simp] theorem elapseTimer_zero (b : Byte) : elapseTimer b 0 = b :=
  BitVec.eq_of_toNat_eq (elapseTimer_toNat b 0)

@[simp] theorem tickTimer_elapseTimer (b : Byte) (n : Nat) : tickTimer (elapseTimer b n) = elapseTimer b (n + 1) := by
  apply BitVec.eq_of_toNat_eq
  rw [tickTimer_toNat, elapseTimer_toNat, elapseTimer_toNat, Nat.sub_sub]

theorem State.elapse_zero (s : State) : s.elapse 0 = s := by
  simp [State.elapse]

theorem State.tick_elapse (s : State) (n : Nat) : (s.elapse n).tick = s.elapse (n + 1) := by
  simp [State.elapse, State.tick]

/-- Settles O10, by induction on the number of ticks: one tick after `n` in one go is `n + 1` in one go. -/
theorem ticksInOneGo : Obligations.TicksInOneGo := by
  intro n s
  induction n with
  | zero => exact s.elapse_zero.symm
  | succ n ih => rw [Function.iterate_succ_apply', ih, State.tick_elapse]

end Sys2Proof.Machine
end

section
/-! A cycle of a running core executes the instruction at `PC` (R120 to R122); a stopped core only counts its timers down (R128). -/

namespace Sys2Proof.Machine

theorem decodeWord_of_decode_pair {hi lo : Byte} {i : Instr} (h : decode [hi, lo] = .ok (i, [])) :
    decodeWord (wordOfBytes hi lo) = some i := by
  simp only [decode] at h
  split at h
  · next hd => cases h; exact hd
  · cases h

theorem fetch_of_pc_le (s : State) (h : s.pc.toNat ≤ 4094) :
    s.fetch = .ok (wordOfBytes (s.byteAt s.pc.toNat) (s.byteAt (s.pc.toNat + 1))) :=
  memRead2_ok s.mem _ h

theorem cycle_of_decode {s : State} {i : Instr} (k : Word) (b : Byte) (hf : s.fault = none) (hpc : s.pc.toNat ≤ 4094)
    (hd : decode [s.byteAt s.pc.toNat, s.byteAt (s.pc.toNat + 1)] = .ok (i, [])) :
    cycle k b s = exec i (s.sampleInputs k b) := by
  have hfetch := fetch_of_pc_le s hpc
  have hword := decodeWord_of_decode_pair hd
  obtain ⟨hne, -⟩ | ⟨-, hge, -⟩ | ⟨-, -, w, hw, hnone, -⟩ | ⟨-, -, w, j, hw, hj, e⟩ := cycle_cases k b s
  · exact absurd hf hne
  · omega
  · cases hfetch.symm.trans hw
    exact nomatch hword.symm.trans hnone
  · cases hfetch.symm.trans hw
    cases hword.symm.trans hj
    exact e

theorem step_no_event {s : State} (h : s.env.events = []) :
    step s = cycle (Config.keySample s.env.time) (Config.rndByte s.env.time) (s.elapse (Config.tickCount s.env.time)).nextTime := by
  simp only [step, h, freeCycle]

/-- Settles O5: neither the ticks and the clock nor the event taken from the queue touch what the cycle fetches, so it is the cycle
of the decoded instruction. -/
theorem stepRunsDecodedInstruction : Obligations.StepRunsDecodedInstruction := by
  intro s i hf hpc hd
  refine ⟨fun he => (step_no_event he).trans ?_, fun k b rest he => (step_event he).trans ?_⟩
  · exact cycle_of_decode (s := (s.elapse _).nextTime) _ _ hf hpc hd
  · exact cycle_of_decode (s := s.dropEvent rest) k b hf hpc hd

/-- Settles O8: the cycle at the head of the queue does nothing more than leave it, and a tick does not look at the record. -/
theorem stoppedCoreOnlyTicks : Obligations.StoppedCoreOnlyTicks := by
  intro s r rest hf
  refine ⟨fun k b he => (step_event he).trans (cycle_of_fault hf), fun he => ?_⟩
  exact ⟨(s.dropEvent rest).tick, step_event he, hf, tickTimer_toNat s.dt, tickTimer_toNat s.st, (SameBut.refl _ s).setEnv.tick⟩

end Sys2Proof.Machine
end

section
/-! The flags and the results of the arithmetic instructions as numbers (R22, R166 to R170, R172). -/

namespace Sys2Proof.Machine

theorem flagByte_toNat (c : Bool) : (flagByte c).toNat = c.toNat := by
  cases c <;> rfl

theorem flagByte_decide_toNat (p : Prop) [Decidable p] : (flagByte (decide p)).toNat = if p then 1 else 0 := by
  rw [flagByte_toNat, Bool.toNat, Bool.cond_decide]

theorem carryFlag_toNat (a b : Byte) : (carryFlag a b).toNat = if a.toNat + b.toNat > 255 then 1 else 0 :=
  flagByte_decide_toNat _

theorem notBorrowFlag_toNat (a b : Byte) : (notBorrowFlag a b).toNat = if a.toNat ≥ b.toNat then 1 else 0 :=
  flagByte_decide_toNat _

theorem lowBitFlag_toNat (a : Byte) : (lowBitFlag a).toNat = a.toNat % 2 := by
  rw [lowBitFlag, flagByte_toNat, BitVec.getLsbD, Nat.toNat_testBit, Nat.pow_zero, Nat.div_one]

theorem highBitFlag_toNat (a : Byte) : (highBitFlag a).toNat = a.toNat / 128 := by
  rw [highBitFlag, flagByte_toNat, BitVec.getLsbD, Nat.toNat_testBit]
  omega

theorem addWrap_toNat (a b : Byte) : (addWrap a b).toNat = (a.toNat + b.toNat) % 256 := rfl

theorem subWrap_toNat (a b : Byte) : ((subWrap a b).toNat : Int) = ((a.toNat : Int) - b.toNat) % 256 := by
  simp only [subWrap, BitVec.toNat_ofNat]
  omega

theorem shiftRight1_toNat (a : Byte) : (shiftRight1 a).toNat = a.toNat / 2 :=
  Nat.mod_eq_of_lt (by omega)

theorem shiftLeft1_toNat (a : Byte) : (shiftLeft1 a).toNat = 2 * a.toNat % 256 := by
  rw [Nat.mul_comm]
  rfl

end Sys2Proof.Machine
end

section
/-! 8XY4 to 8XY7 and 8XYE: which write of `VF` and `V[X]` comes last (R124, R166 to R170; D8). -/

namespace Sys2Proof.Machine

theorem State.reg_result_then_flag (s : State) (x : Reg) (b f : Byte) (r : Reg) :
    ((s.setReg x b).setFlag f).advance.reg r = if r = 15 then f else if r = x then b else s.reg r := by
  rw [State.advance_reg, State.setFlag_reg, State.setReg_reg, flagReg]

/-- The shift `g` reads `V[X]` after the flag is written: with X = 15 it acts on the flag (D8). -/
theorem State.reg_flag_then_shift (s : State) (x : Reg) (f : Byte) (g : Byte → Byte) (r : Reg) :
    ((s.setFlag f).setReg x (g ((s.setFlag f).reg x))).advance.reg r =
      if r = x then (if x = 15 then g f else g (s.reg x)) else if r = 15 then f else s.reg r := by
  rw [State.advance_reg, State.setReg_reg, State.setFlag_reg, State.setFlag_reg, apply_ite g, flagReg]

/-- Settles O28: the flag is written last. -/
theorem addRegResult : Obligations.AddRegResult := by
  intro x y s
  refine ⟨_, rfl, (SameBut.refl _ s).setReg.setFlag.advance, rfl, fun r => ?_⟩
  rw [State.reg_result_then_flag, apply_ite BitVec.toNat, apply_ite BitVec.toNat, carryFlag_toNat, addWrap_toNat]

/-- The registers after a subtraction `a - b` into `V[X]`, whichever registers `a` and `b` come from. -/
theorem State.reg_subtract (s : State) (x : Reg) (a b : Byte) (r : Reg) :
    ((((s.setReg x (subWrap a b)).setFlag (notBorrowFlag a b)).advance.reg r).toNat : Int) =
      if r = 15 then (if a.toNat ≥ b.toNat then 1 else 0)
      else if r = x then ((a.toNat : Int) - b.toNat) % 256
      else (s.reg r).toNat := by
  rw [State.reg_result_then_flag]
  split
  · rw [notBorrowFlag_toNat, Nat.cast_ite, Nat.cast_one, Nat.cast_zero]
  · split
    · exact subWrap_toNat a b
    · rfl

/-- Settles O29: the two subtractions differ in which operand is taken from which. -/
theorem subtractResults : Obligations.SubtractResults := by
  intro x y s
  have same (b f : Byte) : SameBut [.regs, .pc] s ((s.setReg x b).setFlag f).advance := (SameBut.refl _ s).setReg.setFlag.advance
  exact ⟨⟨_, rfl, same _ _, rfl, s.reg_subtract x _ _⟩, ⟨_, rfl, same _ _, rfl, s.reg_subtract x _ _⟩⟩

theorem shiftRight1_lowBitFlag_toNat (a : Byte) : (shiftRight1 (lowBitFlag a)).toNat = 0 := by
  rw [shiftRight1_toNat, lowBitFlag_toNat]
  omega

theorem shiftLeft1_highBitFlag_toNat (a : Byte) : (shiftLeft1 (highBitFlag a)).toNat = 2 * (a.toNat / 128) := by
  rw [shiftLeft1_toNat, highBitFlag_toNat]
  omega

/-- Settles O30: the shift is written last, of the flag itself when X is 15. -/
theorem shiftResults : Obligations.ShiftResults := by
  intro x y s
  have same (f b : Byte) : SameBut [.regs, .pc] s ((s.setFlag f).setReg x b).advance := (SameBut.refl _ s).setFlag.setReg.advance
  refine ⟨⟨_, rfl, same _ _, rfl, fun r => ?_⟩, ⟨_, rfl, same _ _, rfl, fun r => ?_⟩⟩
  · rw [State.reg_flag_then_shift s x _ shiftRight1, apply_ite BitVec.toNat, apply_ite BitVec.toNat, apply_ite BitVec.toNat,
      shiftRight1_lowBitFlag_toNat, shiftRight1_toNat, lowBitFlag_toNat]
  · rw [State.reg_flag_then_shift s x _ shiftLeft1, apply_ite BitVec.toNat, apply_ite BitVec.toNat, apply_ite BitVec.toNat,
      shiftLeft1_highBitFlag_toNat, shiftLeft1_toNat, highBitFlag_toNat]

end Sys2Proof.Machine
end

section
/-! The jumps, the return and the register skips (R140, R141, R143 to R147), the full stack (R142, R253), and the call and return
pair (R148). -/

namespace Sys2Proof.Machine

/-- 00EE with the entry `n` the newest in use. -/
theorem execRet_of_sp_succ {s : State} {n : Nat} (hn : n < Config.stackDepth) (hsp : s.sp.val = n + 1) :
    execRet s = .next (State.setPc { s with sp := ⟨n, Nat.lt_succ_of_lt hn⟩ } s.stk[n]) := by
  obtain ⟨hzero, -⟩ | ⟨m, _, hm, e⟩ := execRet_cases s
  · omega
  · obtain rfl : m = n := by omega
    exact e

/-- Settles O23: the entry the return pops is the one the call pushed. -/
theorem callThenReturnContinues : Obligations.CallThenReturnContinues := by
  intro nnn s h
  obtain ⟨_, e⟩ | ⟨hfull, -⟩ := execCall_cases nnn s
  · refine ⟨_, e, fun t' hsp hentry => ⟨_, execRet_of_sp_succ h (congrArg Fin.val hsp), ?_, rfl⟩⟩
    calc t'.stk[s.sp.val]
      _ = (s.stk.set s.sp.val (s.pc + 2))[s.sp.val] := hentry
      _ = s.pc + 2 := Vector.getElem_set_self h
  · exact absurd hfull (Nat.ne_of_lt h)

theorem jumpTarget_toNat (nnn : Addr) (s : State) :
    (nnn + s.jumpOffset).toNat = (nnn.toNat + (s.reg 0).toNat) % 65536 := by
  rw [BitVec.toNat_add, State.jumpOffset, zext16_toNat]

/-- Settles O19: both jumps write `PC` alone. -/
theorem jumpResults : Obligations.JumpResults := by
  intro nnn s
  have same (a : Addr) : SameBut [.pc] s (s.setPc a) := (SameBut.refl _ s).setPc
  exact ⟨⟨_, rfl, same _, rfl⟩, ⟨_, rfl, same _, jumpTarget_toNat nnn s⟩⟩

/-- Settles O21, from the two ends of 2NNN: with no free entry it is the fault. -/
theorem callOverflowFaults : Obligations.CallOverflowFaults := by
  intro nnn s hsp
  obtain ⟨hfree, -⟩ | ⟨-, e⟩ := execCall_cases nnn s
  · exact absurd hsp (Nat.ne_of_lt hfree)
  · exact ⟨_, e, latches_takeFault _ _ _⟩

/-- Settles O22, from the two ends of 00EE: an entry is in use, or none is. -/
theorem returnResult : Obligations.ReturnResult := by
  refine fun s => ⟨fun n hsp => ?_, fun hsp => ?_⟩
  · exact ⟨_, execRet_of_sp_succ n.isLt hsp, (SameBut.refl _ s).setStack.setPc, rfl, rfl, rfl⟩
  · obtain ⟨-, e⟩ | ⟨m, _, hm, -⟩ := execRet_cases s
    · exact ⟨_, e, latches_takeFault _ _ _⟩
    · omega

theorem State.skipIf_decide_pc (s : State) (p : Prop) [Decidable p] :
    (s.skipIf (decide p)).pc = if p then s.pc + 4 else s.pc + 2 := by
  simp

theorem State.skipIf_decide_not_pc (s : State) (p : Prop) [Decidable p] :
    (s.skipIf (decide ¬p)).pc = if p then s.pc + 2 else s.pc + 4 := by
  rw [State.skipIf_decide_pc, ite_not]

/-- Settles O24: 3XNN and 5XY0 skip on equality, 4XNN and 9XY0 on its negation. -/
theorem registerSkipResults : Obligations.RegisterSkipResults := by
  intro x y nn s
  have same (c : Bool) : SameBut [.pc] s (s.skipIf c) := (SameBut.refl _ s).skipIf
  exact ⟨⟨_, rfl, same _, s.skipIf_decide_pc _⟩, ⟨_, rfl, same _, s.skipIf_decide_not_pc _⟩,
    ⟨_, rfl, same _, s.skipIf_decide_pc _⟩, ⟨_, rfl, same _, s.skipIf_decide_not_pc _⟩⟩

end Sys2Proof.Machine
end

section
/-! 6XNN, 7XNN, 8XY0 to 8XY3 and CXNN: one write of `V[X]`, and no flag (R160 to R165, R171). -/

namespace Sys2Proof.Machine

theorem State.sameBut_setReg_advance (s : State) (x : Reg) (b : Byte) : SameBut [.regs, .pc] s (s.setReg x b).advance :=
  (SameBut.refl _ s).setReg.advance

/-- Settles O26: the three forms write `V[X]` alone, and differ in the byte they write. -/
theorem loadAddCopyResults : Obligations.LoadAddCopyResults := by
  intro x y nn s
  have same (b : Byte) := s.sameBut_setReg_advance x b
  refine ⟨⟨_, rfl, same _, rfl, fun r => s.setReg_reg x r _⟩, ⟨_, rfl, same _, rfl, fun r => ?_⟩,
    ⟨_, rfl, same _, rfl, fun r => s.setReg_reg x r _⟩⟩
  rw [State.advance_reg, State.setReg_reg, apply_ite BitVec.toNat, addWrap_toNat]

/-- A write of `V[X]` whose byte has the bits `f`. -/
theorem State.setReg_advance_bits (s : State) (x : Reg) {b : Byte} {f : Nat → Bool} (hb : ∀ j, b.getLsbD j = f j) :
    SameBut [.regs, .pc] s (s.setReg x b).advance ∧ (s.setReg x b).advance.pc = s.pc + 2 ∧
      (∀ r, r ≠ x → (s.setReg x b).advance.reg r = s.reg r) ∧ ∀ j < 8, ((s.setReg x b).advance.reg x).getLsbD j = f j := by
  refine ⟨s.sameBut_setReg_advance x b, rfl, fun r hr => ?_, fun j _ => ?_⟩
  · rw [State.advance_reg, State.setReg_reg, if_neg hr]
  · rw [State.advance_reg, State.setReg_reg, if_pos rfl, hb]

/-- Settles O27, from the bits of the three operations on bytes. -/
theorem bitwiseResults : Obligations.BitwiseResults := fun x _ s =>
  ⟨⟨_, rfl, s.setReg_advance_bits x fun _ => BitVec.getLsbD_or⟩,
    ⟨_, rfl, s.setReg_advance_bits x fun _ => BitVec.getLsbD_and⟩,
    ⟨_, rfl, s.setReg_advance_bits x fun _ => BitVec.getLsbD_xor⟩⟩

/-- Settles O31: the free byte is read from the state, so nothing is assumed of it. -/
theorem randomResult : Obligations.RandomResult := fun x _ s =>
  ⟨_, rfl, s.setReg_advance_bits x fun _ => BitVec.getLsbD_and⟩

end Sys2Proof.Machine
end

section
/-! ANNN, FX1E and FX29: one write of `I`, and no flag (R190 to R192); and FX65 after FX55 with the same `I` (R302). -/

namespace Sys2Proof.Machine

theorem State.sameBut_setIndex_advance (s : State) (a : Addr) : SameBut [.index, .pc] s (s.setIndex a).advance :=
  (SameBut.refl _ s).setIndex.advance

/-- Settles O38, from O35 and O36: the load finds its base and its run as the store left them. -/
theorem storeThenLoadRoundTrip : Obligations.StoreThenLoadRoundTrip := by
  intro x s hfits
  obtain ⟨t, hstore, same, -, hstored, -⟩ := storeRegsResult x s hfits
  refine ⟨t, hstore, fun t' hindex hbytes => ?_⟩
  have hbase : t'.base = s.base := congrArg BitVec.toNat (hindex.trans (same.index (by decide)))
  obtain ⟨u, hload, -, -, hregs, huindex⟩ := loadRegsResult x t' (by rwa [RunFits, hbase])
  refine ⟨u, hload, fun r hr => ?_, by rw [huindex, hbase]⟩
  calc u.reg r
    _ = t'.byteAt (s.base + r.val) := by rw [hregs, if_pos hr, hbase]
    _ = t.byteAt (s.base + r.val) := hbytes _ (Nat.le_add_right _ _) (Nat.add_le_add_left hr _)
    _ = s.reg r := hstored r hr

theorem indexPlusReg_toNat (s : State) (x : Reg) :
    (s.index + zext16 (s.reg x)).toNat = (s.index.toNat + (s.reg x).toNat) % 65536 := by
  rw [BitVec.toNat_add, zext16_toNat]

/-- Settles O32: both forms write `I` alone. -/
theorem indexResults : Obligations.IndexResults := fun _ x s =>
  ⟨⟨_, rfl, s.sameBut_setIndex_advance _, rfl, rfl⟩, ⟨_, rfl, s.sameBut_setIndex_advance _, rfl, indexPlusReg_toNat s x⟩⟩

theorem glyphAddr_toNat (b : Byte) : (glyphAddr b).toNat = 5 * b.toNat := by
  have := b.isLt
  simp only [glyphAddr, Config.glyphBytes, BitVec.toNat_ofNat]
  omega

/-- Settles O33: five times a byte stays below 65536, so `I` is the whole product. -/
theorem fontAddressResult : Obligations.FontAddressResult := fun x s =>
  ⟨_, rfl, s.sameBut_setIndex_advance _, rfl, glyphAddr_toNat (s.reg x)⟩

end Sys2Proof.Machine
end

section
/-! 00E0, and DXYN whose run fits in memory: the pixels and the collision it draws are those of `spriteAt` (R211 to R214); and DXYN
twice (R213; log entry 17). -/

namespace Sys2Proof.Machine

/-- Settles O40: one write of the grid. -/
theorem clearResult : Obligations.ClearResult := fun s =>
  ⟨_, rfl, (SameBut.refl _ s).setGrid.advance, rfl, Grid.isOn_dark⟩

/-- The grid after DXYN whose run fits in memory, and whether a pixel collided (R213). -/
def State.draw (s : State) (x y : Reg) (n : Nat) : Grid × Bool :=
  s.fb.drawRows (s.reg x).toNat (s.reg y).toNat (s.runBytes n)

theorem execDrw_of_fits (x y : Reg) {n : Nat} {s : State} (h : RunFits s n) :
    execDrw x y n s = .next ((s.setGrid (s.draw x y n).1).setFlag (flagByte (s.draw x y n).2)).advance := by
  obtain ⟨-, e⟩ | ⟨hpos, hlt, -⟩ := execDrw_cases x y n s
  · exact e
  · exact absurd (h.base_add_le hpos) (Nat.not_le_of_gt hlt)

/-- The rows read from `I` on have the bits of the sprite: its row `v - V[y]` is the byte at `I + (v - V[y])`, and past the last row
there is no bit. -/
theorem rowsBit_runBytes (s : State) (x y : Reg) (n u v : Nat) :
    rowsBit (s.reg x).toNat (s.reg y).toNat (s.runBytes n) u v = spriteAt s x y n u v := by
  by_cases hv : v - (s.reg y).toNat < n
  · rw [rowsBit, spriteAt, State.runBytes_length, s.runBytes_getD n _ hv]
  · rw [rowsBit, spriteAt, State.runBytes_length, decide_eq_false (by omega), Bool.false_and, Bool.false_and]

theorem State.draw_isOn (s : State) (x y : Reg) (n u v : Nat) :
    (s.draw x y n).1.isOn u v = (s.pixel u v ^^ spriteAt s x y n u v) := by
  rw [State.draw, Grid.drawRows_isOn, rowsBit_runBytes, State.pixel]

theorem State.draw_hit (s : State) (x y : Reg) (n : Nat) :
    (s.draw x y n).2 = true ↔ ∃ u v, s.pixel u v = true ∧ spriteAt s x y n u v = true := by
  simp only [State.draw, Grid.drawRows_hit, rowsBit_runBytes, State.pixel]

theorem State.setFlag_advance_reg (s : State) (b : Byte) (r : Reg) :
    (s.setFlag b).advance.reg r = if r = 15 then b else s.reg r :=
  s.setFlag_reg r b

/-- Settles O41: the grid and the collision of the rows drawn, and `VF` the only register written. -/
theorem drawResult : Obligations.DrawResult := by
  intro x y n s hfits
  have hhit := s.draw_hit x y n
  refine ⟨_, execDrw_of_fits x y hfits, (SameBut.refl _ s).setGrid.setFlag.advance, rfl, s.draw_isOn x y n,
    fun r hr => ?_, fun hex => ?_, fun hno => ?_⟩
  · rw [State.setFlag_advance_reg, if_neg hr, State.setGrid_reg]
  · rw [State.setFlag_advance_reg, if_pos rfl, hhit.2 hex]
    rfl
  · have hmiss : ¬∃ u v, s.pixel u v = true ∧ spriteAt s x y n u v = true :=
      fun ⟨u, v, hon, hbit⟩ => Bool.eq_false_iff.1 (hno u v hon) hbit
    rw [State.setFlag_advance_reg, if_pos rfl, Bool.eq_false_iff.2 (mt hhit.1 hmiss)]
    rfl

/-- A sprite is given by its two coordinates, `I` and memory. -/
theorem spriteAt_congr {s t : State} {x y : Reg} (n u v : Nat) (hx : t.reg x = s.reg x) (hy : t.reg y = s.reg y)
    (hbase : t.base = s.base) (hmem : ∀ a, t.byteAt a = s.byteAt a) : spriteAt t x y n u v = spriteAt s x y n u v := by
  simp only [spriteAt, hx, hy, hbase, hmem]

/-- Settles O42, from O41 used twice: the first draw leaves the sprite as it was, so the second XORs the same bits, and on a dark
grid it meets exactly those. -/
theorem drawTwiceRestores : Obligations.DrawTwiceRestores := by
  intro x y n s hx hy hfits
  obtain ⟨t, hfirst, same, -, hpixel, hreg, -, -⟩ := drawResult x y n s hfits
  have hbase : t.base = s.base := congrArg BitVec.toNat (same.index (by decide))
  have hsprite (px py : Nat) : spriteAt t x y n px py = spriteAt s x y n px py :=
    spriteAt_congr n px py (hreg x hx) (hreg y hy) hbase (same.mem (by decide))
  obtain ⟨u, hsecond, -, -, hpixel', -, hhit, hmiss⟩ := drawResult x y n t (by rwa [RunFits, hbase])
  refine ⟨t, u, hfirst, hsecond, fun px py => ?_, fun hdark => ⟨fun hflag => ?_, fun ⟨px, py, hbit⟩ => ?_⟩⟩
  · rw [hpixel', hpixel, hsprite, Bool.xor_assoc, Bool.xor_self, Bool.xor_false]
  · by_contra hno
    have hzero : u.reg 15 = 0 := hmiss fun px py _ => by
      rw [hsprite]
      exact Bool.eq_false_iff.2 fun hbit => hno ⟨px, py, hbit⟩
    exact absurd (hflag.symm.trans hzero) (by decide)
  · exact hhit ⟨px, py, by rw [hpixel, hdark, hbit]; rfl, by rw [hsprite, hbit]⟩

end Sys2Proof.Machine
end

section
/-! Only EX9E, EXA1 and FX0A use the key sample (R230): writing it beforehand and writing it afterwards come to the same for every
other instruction. An instruction with two ends takes the same end from both states. -/

namespace Sys2Proof.Machine

/-- The state with another key sample. -/
def State.setKeys (s : State) (k : Word) : State := s.setEnv { s.env with keys := k }

/-- Two outcomes with the same two exclusive ends, the first of which may use the proof of its condition: where each end of `o'` is the
update `f` of that of `o`, so is the outcome. -/
theorem eq_mapNext_of_two_ends {p q : Prop} {f : State → State} {o o' : Outcome} {t : p → State} {u : State} (hpq : p → ¬q)
    (h : (∃ hp, o = .next (t hp)) ∨ (q ∧ o = .next u)) (h' : (∃ hp, o' = .next (f (t hp))) ∨ (q ∧ o' = .next (f u))) :
    o' = mapNext f o := by
  obtain ⟨hp, rfl⟩ | ⟨hq, rfl⟩ := h <;> obtain ⟨hp', rfl⟩ | ⟨hq', rfl⟩ := h'
  · rfl
  · exact absurd hq' (hpq hp)
  · exact absurd hq (hpq hp')
  · rfl

/-- An update that commutes with the write of one register commutes with the write of a run of them. -/
theorem State.setRegRun_comm {f : State → State} (hf : ∀ s r b, (f s).setReg r b = f (s.setReg r b)) (s : State) (k : Nat)
    (bs : List Byte) : (f s).setRegRun k bs = f (s.setRegRun k bs) := by
  induction bs generalizing s k with
  | nil => rfl
  | cons b bs ih =>
    simp only [State.setRegRun, hf, ← apply_dite f, ih]

/-- An update of the key sample commutes with every other instruction. Those with two ends are compared by their inversion lemma, 00EE
is split along `SP`, and each of the others has one end. -/
theorem exec_setKeys (i : Instr) (s : State) (k : Word) (hi : ∀ x, i ≠ .skp x ∧ i ≠ .sknp x ∧ i ≠ .waitKey x) :
    exec i (s.setKeys k) = mapNext (·.setKeys k) (exec i s) := by
  cases i with
  | skp x => exact absurd rfl (hi x).1
  | sknp x => exact absurd rfl (hi x).2.1
  | waitKey x => exact absurd rfl (hi x).2.2
  | ret => obtain ⟨_, _, _, ⟨_ | n, _⟩, _⟩ := s <;> rfl
  | call nnn =>
    exact eq_mapNext_of_two_ends Nat.ne_of_lt (execCall_cases nnn s) (execCall_cases nnn (s.setKeys k))
  | bcd x =>
    exact eq_mapNext_of_two_ends Nat.not_lt_of_ge ((execBcd_cases x s).imp_left exists_prop.2)
      ((execBcd_cases x (s.setKeys k)).imp_left exists_prop.2)
  | storeRegs x =>
    exact eq_mapNext_of_two_ends Nat.not_lt_of_ge ((execStoreRegs_cases x s).imp_left exists_prop.2)
      ((execStoreRegs_cases x (s.setKeys k)).imp_left exists_prop.2)
  | loadRegs x =>
    have hload := execLoadRegs_cases x (s.setKeys k)
    rw [State.setRegRun_comm (f := (·.setKeys k)) fun _ _ _ => rfl] at hload
    exact eq_mapNext_of_two_ends Nat.not_lt_of_ge ((execLoadRegs_cases x s).imp_left exists_prop.2)
      (hload.imp_left exists_prop.2)
  | drw x y n =>
    exact eq_mapNext_of_two_ends (fun _ _ => by omega) ((execDrw_cases x y n s).imp exists_prop.2 and_assoc.2)
      ((execDrw_cases x y n (s.setKeys k)).imp exists_prop.2 and_assoc.2)
  | _ => rfl

/-- Settles O48: the update of the key sample commutes with the instruction. -/
theorem keysReadOnlyByKeypadInstructions : Obligations.KeysReadOnlyByKeypadInstructions := by
  intro i s t k hi h
  exact (exec_setKeys i s k hi).trans (congrArg (mapNext (·.setKeys k)) h)

end Sys2Proof.Machine
end

section
/-! The tick (R238), the key skips (R231 to R233) and the timer instructions (R235 to R237). -/

namespace Sys2Proof.Machine

/-- Settles O9: the event leaves the queue, and the tick then moves the two timers. -/
theorem tickCountsDown : Obligations.TickCountsDown := fun s _ he =>
  ⟨_, step_event he, tickTimer_toNat s.dt, tickTimer_toNat s.st, (SameBut.refl _ s).setEnv.tick, rfl⟩

theorem pressed_eq_decide (k : Word) (v : Byte) :
    pressed k v = decide (v.toNat ≤ 15 ∧ k.getLsbD v.toNat = true) := by
  rw [pressed, Bool.decide_and, Bool.decide_eq_true]

theorem not_pressed_eq_decide (k : Word) (v : Byte) :
    (!pressed k v) = decide ¬(v.toNat ≤ 15 ∧ k.getLsbD v.toNat = true) := by
  rw [pressed_eq_decide, decide_not]

/-- Settles O25: EX9E skips on the key being pressed, EXA1 on its negation. -/
theorem keySkipResults : Obligations.KeySkipResults := by
  intro x s
  have same (c : Bool) : SameBut [.pc] s (s.skipIf c) := (SameBut.refl _ s).skipIf
  refine ⟨⟨_, rfl, same _, ?_⟩, ⟨_, rfl, same _, ?_⟩⟩
  · rw [pressed_eq_decide, State.skipIf_decide_pc]
  · rw [not_pressed_eq_decide, State.skipIf_decide_not_pc]

/-- Settles O44: each form writes one part and `PC`. -/
theorem timerInstructionResults : Obligations.TimerInstructionResults := fun x s =>
  ⟨⟨_, rfl, s.sameBut_setReg_advance x s.dt, rfl, fun r => s.setReg_reg x r s.dt⟩,
    ⟨_, rfl, (SameBut.refl _ s).setDt.advance, rfl, rfl⟩, ⟨_, rfl, (SameBut.refl _ s).setSt.advance, rfl, rfl⟩⟩

end Sys2Proof.Machine
end

section
/-! A latched record has the fields of its cause, and `PC` stays the address it records (R250, R251, R255, R257): a fault is taken only by
a running core, the record is written with the word fetched at `PC`, and nothing but a reset, which clears it, moves `PC` afterwards. -/

namespace Sys2Proof.Machine

theorem faultRecordSound_of_fault_eq_none {s : State} (h : s.fault = none) : FaultRecordSound s :=
  fun _ hr => nomatch h.symm.trans hr

/-- A fault records the `PC` it was taken at, so only the fields of its cause are left to show. -/
theorem faultRecordSound_takeFault {s : State} {f : Fault} {word : Option Word}
    (h : FaultRecord.Sound ⟨f.code, s.pc, word, f.recordedAddr⟩) : FaultRecordSound (s.takeFault f word) := by
  rintro r ⟨⟩
  exact ⟨h, rfl⟩

/-- OutOfBounds records the lowest offending address, which is above memory and fits in 16 bits (R251, R255). -/
theorem faultRecordSound_takeFault_outOfBounds (s : State) (a : Addr) (word : Option Word)
    (hfetch : word = none → 4095 ≤ s.pc.toNat) : FaultRecordSound (s.takeFault (.outOfBounds (max a.toNat 4096)) word) := by
  have haddr : 4096 ≤ (BitVec.ofNat 16 (max a.toNat 4096)).toNat := by
    rw [BitVec.toNat_ofNat]
    omega
  exact faultRecordSound_takeFault (.inl ⟨rfl, ⟨_, rfl, haddr⟩, hfetch⟩)

/-- An instruction of a running core: a call that faults records StackOverflow, a return StackUnderflow, the others that can fault
OutOfBounds from `I` on (R250 to R254). -/
theorem exec_faultRecordSound (i : Instr) (s t : State) (hrun : s.fault = none) (hd : decodeWord (encode i) = some i)
    (h : exec i s = .next t) : FaultRecordSound t := by
  by_cases hi : .fault ∈ writes i
  · cases i with
    | ret =>
      obtain ⟨-, e⟩ | ⟨_, _, -, e⟩ := execRet_cases s <;> cases e.symm.trans h
      · exact faultRecordSound_takeFault (.inr (.inr (.inr ⟨rfl, rfl, rfl⟩)))
      · exact faultRecordSound_of_fault_eq_none hrun
    | call nnn =>
      obtain ⟨_, e⟩ | ⟨-, e⟩ := execCall_cases nnn s <;> cases e.symm.trans h
      · exact faultRecordSound_of_fault_eq_none hrun
      · exact faultRecordSound_takeFault (.inr (.inr (.inl ⟨rfl, rfl, _, nnn, rfl, hd⟩)))
    | drw x y n =>
      obtain ⟨-, e⟩ | ⟨-, -, e⟩ := execDrw_cases x y n s <;> cases e.symm.trans h
      · exact faultRecordSound_of_fault_eq_none hrun
      · exact faultRecordSound_takeFault_outOfBounds s s.index _ nofun
    | bcd x =>
      obtain ⟨-, e⟩ | ⟨-, e⟩ := execBcd_cases x s <;> cases e.symm.trans h
      · exact faultRecordSound_of_fault_eq_none hrun
      · exact faultRecordSound_takeFault_outOfBounds s s.index _ nofun
    | storeRegs x =>
      obtain ⟨-, e⟩ | ⟨-, e⟩ := execStoreRegs_cases x s <;> cases e.symm.trans h
      · exact faultRecordSound_of_fault_eq_none hrun
      · exact faultRecordSound_takeFault_outOfBounds s s.index _ nofun
    | loadRegs x =>
      obtain ⟨-, e⟩ | ⟨-, e⟩ := execLoadRegs_cases x s <;> cases e.symm.trans h
      · exact faultRecordSound_of_fault_eq_none (by simpa using hrun)
      · exact faultRecordSound_takeFault_outOfBounds s s.index _ nofun
    | _ => simp [writes] at hi
  · exact faultRecordSound_of_fault_eq_none (((exec_sameBut_writes i s t h).fault hi).trans hrun)

theorem faultRecordSound_keptByEvents : KeptByEvents FaultRecordSound where
  clock _ _ hs := hs
  dropEvent _ _ hs := hs
  tick _ hs := hs
  resetCore _ _ _ := faultRecordSound_of_fault_eq_none rfl
  resetAll _ _ _ _ _ := faultRecordSound_of_fault_eq_none rfl
  load _ _ _ _ _ hs := hs
  fetchFault s k b _ hpc _ := faultRecordSound_takeFault_outOfBounds (s.sampleInputs k b) s.pc none fun _ => hpc
  unrecognized _ _ _ w _ _ hd _ := faultRecordSound_takeFault (.inr (.inl ⟨rfl, rfl, w, rfl, hd⟩))
  exec s k b w i t hrun _ _ hd _ h := by
    have hword : decodeWord (encode i) = some i := encode_of_decodeWord hd ▸ hd
    exact exec_faultRecordSound i (s.sampleInputs k b) t hrun hword h

/-- Settles O54: every event keeps the predicate; a record is latched only in a cycle of a running core, at fetch, at decode or by an
instruction, and each time with the fields of its cause. -/
theorem faultRecordStaysSound : Obligations.FaultRecordStaysSound := faultRecordSound_keptByEvents.step

end Sys2Proof.Machine
end
